-- ==== Sys2Proof/Word.lean ====
section
/-! DEFINITION. The units the ButCom link block moves (R10, R71 to R73): the byte, and the three forms in which
something with an encoding is presented to the block (R114): a host command word, the ten cells of a byte, the
bytes of a frame. -/
namespace Sys2Proof

/-- One byte: bit 0 least significant, bit 7 most significant, unsigned (R10). -/
abbrev Byte := BitVec 8

/-- What the host drives on its command port (R50, R110): the 4-bit code, and beside it the operand fields, "as
separate fields, not packed into a word". One bit, one natural number and one byte sequence carry every operand of
the table; SEND uses all three, the others at most one. -/
structure CmdWord where
  /-- the 4-bit command code `op` -/
  op    : BitVec 4
  /-- the 1-bit operand: `hello` of INIT, `ack` of SEND -/
  flag  : Bool
  /-- the natural operand: `len`, `level`, `ms` or `n` -/
  num   : Nat
  /-- the byte-sequence operand: `payload` of SEND -/
  bytes : List Byte
  deriving DecidableEq, Repr

/-- One encoded thing presented to the block, in the three formats of the opcode table (R114). -/
inductive Item where
  /-- a command on the host port (R110) -/
  | cmd (w : CmdWord)
  /-- the cells of one byte on the wire in time order, `false` = low, `true` = high (R100) -/
  | cells (c : List Bool)
  /-- the bytes of one frame in wire order, START first (R101) -/
  | frame (bytes : List Byte)
  deriving DecidableEq, Repr

end Sys2Proof
end

