-- ==== Sys2Proof/Config.lean ====
section
/-! DEFINITION. The constants of the block (R6), its construction parameters (R7), and the free values the spec
leaves to the environment (93_implementation_defined.md, parts 1 to 3). -/
namespace Sys2Proof

/-- The quality levels 1..4 (R6, R232); `QUALITY_RESET` and the operand of SETQ range over them. -/
inductive Quality where
  | q1 | q2 | q3 | q4
  deriving DecidableEq, Repr, Inhabited

/-- The two levels at which the block may be modelled (R15, 92_eei_decisions.md D35): `wire` runs the bit transport over
level reads and clock reads; `byte` replaces it by a lossless byte channel. -/
inductive Level where
  | wire | byte
  deriving DecidableEq, Repr, Inhabited

/-- The construction parameters R7 says a model takes as arguments. They stand in State, so every statement about every
state holds for every choice of them; no command writes them. -/
structure Straps where
  /-- `DEVID`, set at construction, immutable (R20) -/
  devId         : Byte
  /-- `MAX_PAYLOAD`, 0..252 (R7, D33, U12) -/
  maxPayload    : Fin 253
  /-- `QUALITY_RESET` (R21, D21) -/
  qualityReset  : Quality
  /-- `MAXRETRY_RESET` (R24, D21) -/
  maxRetryReset : Nat
  /-- `HELLOINT_RESET`, milliseconds (R25, D21) -/
  helloIntReset : Nat
  /-- `RX_TIMEOUT_MS`, milliseconds (R27, D21) -/
  rxTimeoutMs   : Nat
  /-- `ID_SKIP_ZERO` (R7, R205, D13) -/
  idSkipZero    : Bool
  /-- `CLOCK_COUPLED` (R7, R56, D4) -/
  clockCoupled  : Bool
  /-- the level of modelling (R15, D35) -/
  level         : Level
  deriving DecidableEq, Repr

namespace Config

/-- `START = 0xA5` (R6). -/
def start : Byte := 0xA5
/-- `TYPE_HELLO = 0` (R6, R103). -/
def typeHello : Byte := 0
/-- `TYPE_DATA = 1` (R6, R103). -/
def typeData : Byte := 1
/-- `TYPE_ACK = 2` (R6, R103). -/
def typeAck : Byte := 2
/-- The checksum polynomial's low eight coefficients (R6, R130). -/
def crcPoly : Byte := 0x07
/-- The checksum's initial accumulator (R6, R131). -/
def crcInit : Byte := 0
/-- `BITP_MIN`, microseconds (R6). -/
def bitpMin : Nat := 300
/-- `BITP_MAX`, microseconds (R6). -/
def bitpMax : Nat := 2000
/-- Idle threshold in bit periods (R6, R22). -/
def idleFactor : Nat := 3
/-- `HALF = floor(BITP / 2)` (R22, D7). -/
def halfDivisor : Nat := 2
/-- `QUARTER = floor(BITP / 4)`, the glitch re-check (R22, R148, C2, D8). -/
def quarterDivisor : Nat := 4
/-- Minimum LENGTH (R6, R102): TYPE, MESSAGE_ID and CHECKSUM. -/
def lengthMin : Nat := 3
/-- First message id (R6, R31). -/
def firstId : Byte := 1

/-- The largest bit period whose acknowledgment timeout is `ackShort`, and the largest whose timeout is `ackMiddle`
(R6, R23, C1). -/
def ackShortLimit : Nat := 500
def ackMiddleLimit : Nat := 800
/-- The three acknowledgment timeouts, milliseconds (R6, R23, C1). -/
def ackShort : Nat := 40
def ackMiddle : Nat := 60
def ackLong : Nat := 80

/-! Parameters for which no source gives a default (R7, D21): opaque, so nothing can depend on a value of theirs. -/

/-- `DEVID` of this device (R7: "a construction parameter with no default"). -/
opaque devId : Byte
/-- `QUALITY_RESET` (OPEN). -/
opaque qualityReset : Quality
/-- `MAXRETRY_RESET` (OPEN). -/
opaque maxRetryReset : Nat
/-- `HELLOINT_RESET` (OPEN). -/
opaque helloIntReset : Nat
/-- `RX_TIMEOUT_MS` (OPEN). -/
opaque rxTimeoutMs : Nat

/-- The device's construction parameters: the open ones opaque, `MAX_PAYLOAD = 16`, `ID_SKIP_ZERO = false` and
`CLOCK_COUPLED = false` at the defaults R7 gives; the wire level (log entry 2). -/
def straps : Straps where
  devId         := devId
  maxPayload    := 16
  qualityReset  := qualityReset
  maxRetryReset := maxRetryReset
  helloIntReset := helloIntReset
  rxTimeoutMs   := rxTimeoutMs
  idSkipZero    := false
  clockCoupled  := false
  level         := .wire

/-! Free values (log entries 3 and 4). Each is applied to the counter `State.freeCtr`, which advances at every use. -/

/-- How far the microsecond clock moves before the next primitive step when State lists no draw (R55; 93 part 3). -/
opaque freeMicros : Nat → Nat
/-- How far the millisecond clock moves before the next primitive step when State lists no draw (R56; 93 part 3). -/
opaque freeMillis : Nat → Nat
/-- Whether the peer or noise pulls the line low at that step (R54, R58; 93 part 3). -/
opaque freePulled : Nat → Bool
/-- The answer of GETPEERID while `PEERKNOWN = 0` (R33, U4: "an 8-bit draw, fresh at each GETPEERID"). -/
opaque freePeerId : Nat → Byte

end Config
end Sys2Proof
end

