-- ==== Sys2Proof/Machine/Checksum.lean ====
section
/-! DEFINITION. The checksum family (40_checksum.md, R130 to R132): pure, no state, no failure. -/
namespace Sys2Proof.Machine

/-- One round of R130: test bit 7, shift left within 8 bits, XOR the polynomial if the tested bit was 1. -/
def crcRound (x : Byte) : Byte :=
  if x.getLsbD 7 then (x <<< 1) ^^^ Config.crcPoly else x <<< 1

/-- CRC8.UPDATE (R130; G1): XOR the byte into the accumulator, then eight rounds. -/
def crcUpdate (acc byte : Byte) : Byte :=
  Nat.iterate crcRound 8 (acc ^^^ byte)

/-- CRC8.FOLD (R131): from accumulator 0 over the bytes in order. -/
def crcFold (bytes : List Byte) : Byte :=
  bytes.foldl crcUpdate Config.crcInit

/-- CRC8.FRAME (R132): LENGTH, TYPE, MESSAGE_ID, PAYLOAD; START is not covered. -/
def crcFrame (length type id : Byte) (payload : List Byte) : Byte :=
  crcFold ([length, type, id] ++ payload)

end Sys2Proof.Machine
end

