-- ==== Sys2Proof/Machine/Operands.lean ====
section
/-! DEFINITION. The values the block assembles from its inputs (R108) and the values that are functions of a register
(R22, R23): lengths, bit periods, timeouts, sample instants. -/
namespace Sys2Proof.Machine

/-- `n = LENGTH - 3`, the number of payload bytes a LENGTH byte announces (R102); 0 for a LENGTH below 3. -/
def payloadSize (length : Byte) : Nat := length.toNat - Config.lengthMin

/-- `LENGTH = n + 3` (R102, R108 item 2). -/
def lengthOf (n : Nat) : Byte := BitVec.ofNat 8 (n + Config.lengthMin)

/-- `MAXBODY = MAX_PAYLOAD + 3` (R7, R40). -/
def maxBody (p : Straps) : Nat := p.maxPayload.val + Config.lengthMin

/-- `n = min(len, MAX_PAYLOAD)` (R108 item 1, R170, R206). -/
def clampLen (p : Straps) (len : Nat) : Nat := min len p.maxPayload.val

/-- LENGTH in `[3, MAX_PAYLOAD + 3]` (R102, R176). -/
def lengthInRange (maxPayload : Nat) (length : Byte) : Bool :=
  decide (Config.lengthMin ≤ length.toNat) && decide (length.toNat ≤ maxPayload + Config.lengthMin)

/-- Bit period per quality level, microseconds (R6, R108 item 6, R232). -/
def qualityBitp : Quality → Nat
  | .q1 => 300
  | .q2 => 500
  | .q3 => 800
  | .q4 => 1200

/-- The quality level a SETQ operand names; none outside 1..4 (R232, R236). -/
def qualityOfLevel : Nat → Option Quality
  | 1 => some .q1
  | 2 => some .q2
  | 3 => some .q3
  | 4 => some .q4
  | _ => none

/-- BT.SETBITP's clamp of its operand (R140). -/
def clampBitp (p : Nat) : Nat :=
  if p < Config.bitpMin then Config.bitpMin
  else if p > Config.bitpMax then Config.bitpMax
  else p

/-- `HALF = floor(BITP / 2)` (R22, D7). -/
def halfOf (bitp : Nat) : Nat := bitp / Config.halfDivisor

/-- `QUARTER = floor(BITP / 4)` (R22, R148, C2). -/
def quarterOf (bitp : Nat) : Nat := bitp / Config.quarterDivisor

/-- `IDLE = 3 * BITP` (R22). -/
def idleOf (bitp : Nat) : Nat := Config.idleFactor * bitp

/-- The first sample instant, `edge + BITP + HALF` (R149). -/
def firstTarget (edge bitp : Nat) : Nat := edge + bitp + halfOf bitp

/-- `acktoOf(p)` (R23, C1, D15): 40 if `p <= 500`, 60 if `p <= 800`, 80 otherwise. -/
def ackToOf (p : Nat) : Nat :=
  if p ≤ Config.ackShortLimit then Config.ackShort
  else if p ≤ Config.ackMiddleLimit then Config.ackMiddle
  else Config.ackLong

/-- `v[i] <- 1` (R145 (d), R108 item 4). -/
def setBit (v : Byte) (i : Nat) : Byte := v ||| (1 <<< i)

end Sys2Proof.Machine
end

