-- ==== Sys2Proof/Syntax.lean ====
section
/-! DEFINITION. The encoded things of the opcode table (R114), one constructor a row: the byte cell, the three frame
types, the eleven host commands; and the names under which the decoder turns something away. -/
namespace Sys2Proof

/-- One constructor per row of spec/opcode_table.json. The wire rows carry their fields as they stand on the wire,
LENGTH and CHECKSUM included, so that a malformed or corrupt frame is an instruction with the effect the spec gives it
(R109: "Every byte value is a legal byte"); the host rows carry the operands of R110. -/
inductive Instr where
  /-- BYTE (R100): one byte, ten cells on the wire -/
  | byte (b : Byte)
  /-- HELLO (R101, TYPE 0) -/
  | hello (length id : Byte) (payload : List Byte) (checksum : Byte)
  /-- DATA (R101, TYPE 1) -/
  | data (length id : Byte) (payload : List Byte) (checksum : Byte)
  /-- ACK (R101, TYPE 2) -/
  | ack (length id : Byte) (payload : List Byte) (checksum : Byte)
  /-- INIT (R211) -/
  | init (hello : Bool)
  /-- POLL (R212) -/
  | poll
  /-- SEND (R206) -/
  | send (payload : List Byte) (len : Nat) (ack : Bool)
  /-- SETHANDLER (R231) -/
  | sethandler
  /-- SETQ (R232) -/
  | setq (level : Nat)
  /-- SETACKTO (R233) -/
  | setackto (ms : Nat)
  /-- SETMAXRETRY (R234) -/
  | setmaxretry (n : Nat)
  /-- SETHELLOINT (R235) -/
  | sethelloint (ms : Nat)
  /-- GETID (R237) -/
  | getid
  /-- GETPEERID (R238) -/
  | getpeerid
  /-- GETPEERKNOWN (R239) -/
  | getpeerknown
  deriving DecidableEq, Repr

/-- Why the decoder turns an item away. A step refuses the first kind and receives the others as bytes (R109). -/
inductive Reject where
  /-- a host command code 1011..1111 (R111, R240, U3) -/
  | reservedCode
  /-- a cell sequence that is not ten cells with a low start cell and a high stop cell (R100) -/
  | notAByte
  /-- a frame item whose first byte is not START (R101) -/
  | noStart
  /-- a frame item whose TYPE is 3..255, not assigned (R103) -/
  | reservedType
  /-- a frame item with fewer or more bytes than its LENGTH announces (R102) -/
  | wrongSize
  deriving DecidableEq, Repr

end Sys2Proof
end

