-- ==== Sys2Proof/WellFormed.lean ====
section
/-! DEFINITION. Which instructions the encodings of 30_encoding.md can carry as conforming ones, for a device with a given
`MAX_PAYLOAD`. An instruction that fails a check is still executed where the spec says what happens (a frame with a
bad LENGTH or CHECKSUM is dropped silently), and refused by name where it does not (U1, U7). -/
namespace Sys2Proof

/-- The shape of a frame's fields: as many payload bytes as LENGTH announces (R102). -/
def frameShape (length : Byte) (payload : List Byte) : Bool :=
  payload.length == Machine.payloadSize length

/-- A conforming frame of the given TYPE (R101, R102, R106): LENGTH in range, payload of that size, checksum right. -/
def frameOk (maxPayload : Nat) (length type id : Byte) (payload : List Byte) (checksum : Byte) : Bool :=
  Machine.lengthInRange maxPayload length && frameShape length payload &&
    (checksum == Machine.crcFrame length type id payload)

/-- The well-formedness check, per instruction. -/
def Instr.wellFormed (maxPayload : Nat) : Instr → Bool
  | .byte _ => true
  | .hello length id payload checksum => frameOk maxPayload length Config.typeHello id payload checksum
  | .data length id payload checksum => frameOk maxPayload length Config.typeData id payload checksum
  | .ack length id payload checksum => frameOk maxPayload length Config.typeAck id payload checksum
  | .init _ => true
  | .poll => true
  | .send payload len _ => decide (min len maxPayload ≤ payload.length)
  | .sethandler => true
  | .setq level => decide (1 ≤ level) && decide (level ≤ 4)
  | .setackto _ => true
  | .setmaxretry _ => true
  | .sethelloint _ => true
  | .getid => true
  | .getpeerid => true
  | .getpeerknown => true

end Sys2Proof
end

