-- ==== Sys2Proof/Decode.lean ====
section
/-! DEFINITION. The decoder, total on any item, and the encoder, both from 30_encoding.md. Nothing of the machine sees an
encoding after this file. -/
namespace Sys2Proof

/-- The host command codes of R110; codes 1011..1111 are reserved (R111). -/
def decodeCmd (w : CmdWord) : Except Reject Instr :=
  match w.op.toNat with
  | 0 => .ok (.init w.flag)
  | 1 => .ok .poll
  | 2 => .ok (.send w.bytes w.num w.flag)
  | 3 => .ok .sethandler
  | 4 => .ok (.setq w.num)
  | 5 => .ok (.setackto w.num)
  | 6 => .ok (.setmaxretry w.num)
  | 7 => .ok (.sethelloint w.num)
  | 8 => .ok .getid
  | 9 => .ok .getpeerid
  | 10 => .ok .getpeerknown
  | _ => .error .reservedCode

/-- The byte whose bits are the listed levels, least significant first (R74): the receiver's `v[i]` (R108 item 4). -/
def byteOfBits : List Bool → Byte
  | [] => 0
  | b :: bs => (byteOfBits bs <<< 1) ||| (if b then 1 else 0)

/-- The eight levels of a byte's data cells, `b[0]` first (R74, R100). -/
def bitsOfByte (b : Byte) : List Bool :=
  (List.range 8).map b.getLsbD

/-- The ten cells of a byte in time order (R100): start low, data least significant bit first, stop high. -/
def cellsOfByte (b : Byte) : List Bool :=
  false :: (bitsOfByte b ++ [true])

/-- The pattern `0abcdefgh1` of R100: exactly ten cells, the first low, the last high. -/
def decodeCells : List Bool → Except Reject Instr
  | [false, a, b, c, d, e, f, g, h, true] => .ok (.byte (byteOfBits [a, b, c, d, e, f, g, h]))
  | _ => .error .notAByte

/-- The frame layout of R101: START, LENGTH, TYPE, MESSAGE_ID, then as many payload bytes as LENGTH announces, then
CHECKSUM. The LENGTH range and the checksum are the block's own checks (R176, R178), not this function's. -/
def decodeFrame : List Byte → Except Reject Instr
  | st :: length :: type :: id :: rest =>
    if st = Config.start then
      match rest.drop (Machine.payloadSize length) with
      | [checksum] =>
        let payload := rest.take (Machine.payloadSize length)
        if type = Config.typeHello then .ok (.hello length id payload checksum)
        else if type = Config.typeData then .ok (.data length id payload checksum)
        else if type = Config.typeAck then .ok (.ack length id payload checksum)
        else .error .reservedType
      | _ => .error .wrongSize
    else .error .noStart
  | _ => .error .wrongSize

/-- The decoder: an item to an instruction of the table, or a rejection by name. -/
def decode : Item → Except Reject Instr
  | .cmd w => decodeCmd w
  | .cells c => decodeCells c
  | .frame bytes => decodeFrame bytes

/-- A host command word with the given code and operands (R110). -/
def cmdItem (op : BitVec 4) (flag : Bool := false) (num : Nat := 0) (bytes : List Byte := []) : Item :=
  .cmd { op := op, flag := flag, num := num, bytes := bytes }

/-- A frame's bytes in wire order (R101, R75). -/
def frameBytes (length type id : Byte) (payload : List Byte) (checksum : Byte) : List Byte :=
  [Config.start, length, type, id] ++ payload ++ [checksum]

/-- The encoder: what the wire or the host port carries for an instruction (R100, R101, R110). -/
def encode : Instr → Item
  | .byte b => .cells (cellsOfByte b)
  | .hello length id payload checksum => .frame (frameBytes length Config.typeHello id payload checksum)
  | .data length id payload checksum => .frame (frameBytes length Config.typeData id payload checksum)
  | .ack length id payload checksum => .frame (frameBytes length Config.typeAck id payload checksum)
  | .init hello => cmdItem 0b0000 (flag := hello)
  | .poll => cmdItem 0b0001
  | .send payload len ack => cmdItem 0b0010 (flag := ack) (num := len) (bytes := payload)
  | .sethandler => cmdItem 0b0011
  | .setq level => cmdItem 0b0100 (num := level)
  | .setackto ms => cmdItem 0b0101 (num := ms)
  | .setmaxretry n => cmdItem 0b0110 (num := n)
  | .sethelloint ms => cmdItem 0b0111 (num := ms)
  | .getid => cmdItem 0b1000
  | .getpeerid => cmdItem 0b1001
  | .getpeerknown => cmdItem 0b1010

/-- The header word `H = START << 24 | LENGTH << 16 | TYPE << 8 | MESSAGE_ID` of R107 laid out on the wire, its first byte
the top byte, followed by payload and CHECKSUM bytes of zero. -/
def frameOfHeader (h : Nat) : List Byte :=
  let length : Byte := BitVec.ofNat 8 (h / 2 ^ 16)
  [BitVec.ofNat 8 (h / 2 ^ 24), length, BitVec.ofNat 8 (h / 2 ^ 8), BitVec.ofNat 8 h]
    ++ List.replicate (Machine.payloadSize length + 1) 0

/-- The item an opcode-table word of `nbits` bits stands for: a row of one byte is a host command code with all its operand
fields zero (R110; mask `0xF`); a row of up to two bytes is the ten cells `0abcdefgh1`, the first the most significant bit
of the pattern (R100); a wider one is a frame header (R107). -/
def itemOfWord (nbits w : Nat) : Item :=
  if nbits ≤ 8 then cmdItem (BitVec.ofNat 4 w)
  else if nbits ≤ 16 then .cells ((List.range 10).map fun i => w.testBit (9 - i))
  else .frame (frameOfHeader w)

/-- The instruction the decoder reads from an opcode-table word. -/
def decodeTableWord (nbits w : Nat) : Option Instr :=
  match decode (itemOfWord nbits w) with
  | .ok i => some i
  | .error _ => none

end Sys2Proof
end

