-- ==== Sys2Proof/Machine/State.lean ====
section
/-! DEFINITION. The state of the block (10_state.md) as plain data, the ways a step can stop, and the state after reset
(R300, R301). -/
namespace Sys2Proof.Machine

/-- `RXSTATE` (R28). -/
inductive RxState where
  | awaitingStart | awaitingLength | readingBody
  deriving DecidableEq, Repr

/-- What the environment does before one primitive step (93_implementation_defined.md part 3): how far each clock moves,
and whether the peer or noise pulls the line low. -/
structure Draw where
  /-- microseconds that pass -/
  us     : Nat
  /-- milliseconds that pass on the millisecond clock (not used when `CLOCK_COUPLED`) -/
  ms     : Nat
  /-- the line is pulled low from outside (R58) -/
  pulled : Bool
  deriving DecidableEq, Repr

/-- The caller FC.TXFRAME returns to (R46): which procedure sent the frame. -/
inductive After where
  /-- SEND (R206), with its operands (`len` already clamped) and the id it drew -/
  | send (payload : List Byte) (len : Nat) (id : Byte) (ack : Bool)
  /-- PE.PROCESS step 5 (R201) -/
  | autoAck
  /-- PE.RETRYTICK (R207) -/
  | retry
  /-- PE.SENDHELLO (R209) -/
  | hello
  deriving DecidableEq, Repr

/-- A frame being sent by FC.TXFRAME (R171): the byte inside BT.TXBYTE, the bytes still to come, the caller. -/
structure Tx where
  byte  : Byte
  rest  : List Byte
  after : After
  deriving DecidableEq, Repr

/-- The position inside the command being run (R46). Each position but `idle` names the supplier call the block makes
next; the pseudocode line it belongs to is in its comment. -/
inductive Pos where
  /-- no command is running (R46, R50) -/
  | idle
  /-- R141 `hs <- Micros()` at entry -/
  | idleEnter (tx : Tx)
  /-- R141 `GpioRead()` -/
  | idleRead (tx : Tx)
  /-- R141 `hs <- Micros()` after a low read -/
  | idleLow (tx : Tx)
  /-- R141 `Micros() - hs >= IDLE` after a high read -/
  | idleCheck (tx : Tx)
  /-- R142 the pin action of a cell; `later` are the cells after it -/
  | cellPin (level : Bool) (later : List Bool) (tx : Tx)
  /-- R142 `DelayMicros(BITP)` of the cell just driven -/
  | cellDelay (later : List Bool) (tx : Tx)
  /-- R145 `t0 <- Millis()` -/
  | rxEnter
  /-- R145 (a) `GpioRead()` -/
  | rxLeaveLow
  /-- R145 (a) the budget test -/
  | rxLeaveLowBudget
  /-- R145 (b) `GpioRead()` -/
  | rxWatch
  /-- R145 (b) the budget test -/
  | rxWatchBudget
  /-- R145 `edge <- Micros()` -/
  | rxEdge
  /-- R145 (c) `DelayMicros(QUARTER)` -/
  | rxGlitchDelay
  /-- R145 (c) `GpioRead()`, the re-check -/
  | rxRecheck
  /-- R145 (d) `Micros() < target` for bit `i` -/
  | rxTarget (i : Nat)
  /-- R145 (d) the budget test while waiting for bit `i` -/
  | rxTargetBudget (i : Nat)
  /-- R145 (d) `GpioRead()` of bit `i` -/
  | rxSample (i : Nat)
  /-- R206 `PEND.last_ms <- Millis()`; the frame is captured already, `id` is the response to come -/
  | sendStamp (id : Byte)
  /-- R207 `now <- Millis()` -/
  | retryNow
  /-- R207 `PEND.last_ms <- Millis()` -/
  | retryStamp
  /-- R210 `now <- Millis()` -/
  | helloNow
  /-- R209 `LASTHELLO <- Millis()` -/
  | helloStamp
  deriving DecidableEq, Repr

/-- The pending transmission (R34 to R38, R41). -/
structure Pend where
  /-- `PEND.active` (R34) -/
  active  : Bool
  /-- `PEND.needAck` (R35, C6) -/
  needAck : Bool
  /-- `PEND.type` (R36) -/
  type    : Byte
  /-- `PEND.id` (R36) -/
  id      : Byte
  /-- `PEND.len` (R36) -/
  len     : Nat
  /-- `PEND.retries` (R37) -/
  retries : Nat
  /-- `PEND.last_ms` (R38) -/
  lastMs  : Nat
  /-- `PEND.payload[0..MAX_PAYLOAD-1]` (R41) -/
  payload : List Byte
  deriving DecidableEq, Repr

/-- The transients of R45, each dead outside its procedure. -/
structure Transient where
  /-- `hs`, BT.IDLEWAIT -/
  hs     : Nat
  /-- `t0`, BT.RXBYTE -/
  t0     : Nat
  /-- `edge`, BT.RXBYTE -/
  edge   : Nat
  /-- `target`, BT.RXBYTE -/
  target : Nat
  /-- `v`, BT.RXBYTE -/
  v      : Byte
  /-- `dup`, PE.PROCESS -/
  dup    : Bool
  deriving DecidableEq, Repr

/-- A value on the response port (R51): 8 bits, or the one bit of GETPEERKNOWN. -/
inductive Response where
  | byte (v : Byte)
  | bit (v : Bool)
  deriving DecidableEq, Repr

/-- The handler event `event(id, type, payload, len)` (R51, R275). -/
structure Event where
  id      : Byte
  type    : Byte
  payload : List Byte
  len     : Nat
  deriving DecidableEq, Repr

/-- Everything the spec gives one device, and the environment it runs in (R47, R9). -/
structure State where
  /-- construction parameters, `DEVID` (R20) among them -/
  straps    : Straps
  /-- `BITP`, microseconds (R21) -/
  bitp      : Nat
  /-- `ACKTO`, milliseconds (R23) -/
  ackTo     : Nat
  /-- `MAXRETRY` (R24) -/
  maxRetry  : Nat
  /-- `HELLOINT`, milliseconds (R25) -/
  helloInt  : Nat
  /-- `HANDLER_EN` (R26) -/
  handlerEn : Bool
  /-- `RXSTATE` (R28) -/
  rxState   : RxState
  /-- `RXLEN` (R29) -/
  rxLen     : Byte
  /-- `RXIDX` (R30) -/
  rxIdx     : Nat
  /-- `RXBUF[0..MAXBODY-1]` (R40) -/
  rxBuf     : List Byte
  /-- `NEXTID` (R31) -/
  nextId    : Byte
  /-- `LASTVALID` (R32) -/
  lastValid : Bool
  /-- `LASTID` (R32) -/
  lastId    : Byte
  /-- `PEERKNOWN` (R33) -/
  peerKnown : Bool
  /-- `PEERID` (R33) -/
  peerId    : Byte
  /-- the pending transmission (R34 to R38, R41) -/
  pend      : Pend
  /-- `LASTHELLO`, milliseconds (R39) -/
  lastHello : Nat
  /-- `DRV`: this device pulls the line low (R44) -/
  drv       : Bool
  /-- the transients of R45 -/
  tmp       : Transient
  /-- the position inside the running command (R46) -/
  seq       : Pos
  /-- bytes of a received frame not yet taken: each is to be the byte one further POLL of this command receives (log 6) -/
  feed      : List Byte
  /-- the timing supplier's microsecond clock (R55) -/
  micros    : Nat
  /-- the timing supplier's millisecond clock (R56) -/
  millis    : Nat
  /-- the environment's next draws, as far as they are listed (log 3) -/
  env       : List Draw
  /-- how many free values have been used (log 3, 4) -/
  freeCtr   : Nat
  /-- byte level only (R15): bytes the peer has sent and this device has not yet received -/
  chanIn    : List Byte
  /-- what waits to be accepted, oldest first (R50; log 9) -/
  port      : List Item
  /-- the response port's output since reset, oldest first (R51) -/
  responses : List Response
  /-- the event port's output since reset, oldest first (R51) -/
  events    : List Event
  /-- the cells this device has put on the wire since reset (R100) -/
  txCells   : List Bool
  /-- the bytes this device has sent since reset (R171) -/
  txBytes   : List Byte
  deriving DecidableEq, Repr

/-- No step faults: "The block raises no exception" (R11), "All five kinds are handled by local recovery (drop-and-
continue); none is fatal, none halts the engine" (60_exceptions.md); no supplier call has a failure (R52 to R57). The
type is empty, which is safe: a model that never faults leaves no run out. -/
inductive Fault where
  deriving DecidableEq, Repr

/-- The cases the spec tells a model to refuse: "the model gives the case no meaning" (93_implementation_defined.md).
Each refusal is safe: no claim about what comes after can be proved. -/
inductive Refusal where
  /-- Raised by `exec` for an instruction without a meaning; no arm uses it. Safe. -/
  | notModelled (mnemonic : String)
  /-- Raised by SETQ with a level outside 1..4 (R236, U1, D22). Safe. -/
  | qualityOutOfRange
  /-- Raised by PE.PROCESS on a validated frame of TYPE 3..255 (R214, U2, D17). Safe. -/
  | reservedFrameType
  /-- Raised by SEND with fewer bytes than `min(len, MAX_PAYLOAD)` (R170, U7, D26). Safe. -/
  | payloadTooShort
  /-- Raised by `step` for a reserved command code 1011..1111: "a model refuses them" (R240, R111, U3). Safe. -/
  | reservedCommand
  deriving DecidableEq, Repr

/-- The outcome of a step of this machine. -/
abbrev Out := Host.Outcome State Fault Refusal

/-- The state after power-up of a device built with parameters `p` (R300, R301). Values no source gives are zero, log 5. -/
def State.resetWith (p : Straps) : State where
  straps    := p
  bitp      := qualityBitp p.qualityReset
  ackTo     := ackToOf (qualityBitp p.qualityReset)
  maxRetry  := p.maxRetryReset
  helloInt  := p.helloIntReset
  handlerEn := false
  rxState   := .awaitingStart
  rxLen     := 0
  rxIdx     := 0
  rxBuf     := List.replicate (maxBody p) 0
  nextId    := Config.firstId
  lastValid := false
  lastId    := 0
  peerKnown := false
  peerId    := 0
  pend      := { active := false, needAck := false, type := 0, id := 0, len := 0, retries := 0, lastMs := 0,
                 payload := List.replicate p.maxPayload.val 0 }
  lastHello := 0
  drv       := false
  tmp       := { hs := 0, t0 := 0, edge := 0, target := 0, v := 0, dup := false }
  seq       := .idle
  feed      := []
  micros    := 0
  millis    := 0
  env       := []
  freeCtr   := 0
  chanIn    := []
  port      := []
  responses := []
  events    := []
  txCells   := []
  txBytes   := []

/-- The machine right after reset (R300): this device's construction parameters, nothing listed, nothing waiting. -/
def State.reset : State := State.resetWith Config.straps

end Sys2Proof.Machine
end

