-- ==== Sys2Proof/Machine/Ops.lean ====
section
/-! DEFINITION. The operations every command is built from: the clocks and the line as the suppliers show them (R52 to
R58), the accessors of the two byte arrays (R40, R41), the host-side outputs (R51). -/
namespace Sys2Proof.Machine

/-- Go on with a state, or stop where the first part stopped. -/
def andThen (o : Out) (f : State → Out) : Out :=
  match o with
  | .next s => f s
  | .fault r => .fault r
  | .refused r => .refused r

/-- No command is running (R46, R50). -/
def Pos.isIdle : Pos → Bool
  | .idle => true
  | _ => false

/-- The command port's `ready`: 0 while a command runs (R50). -/
def ready (s : State) : Bool := s.seq.isIdle

/-- Power-up, or a reset input (R300, D1): every register of the block takes its reset value, no command is in progress, the
construction parameters are kept (R20). The suppliers' clocks, the environment and what the ports have shown so far are
not the block's registers and stay. -/
def powerUp (s : State) : State :=
  { State.resetWith s.straps with
    micros := s.micros, millis := s.millis, env := s.env, freeCtr := s.freeCtr, chanIn := s.chanIn, port := s.port,
    responses := s.responses, events := s.events, txCells := s.txCells, txBytes := s.txBytes }

/-! ### The suppliers -/

/-- Time passes before a primitive step by the step's draw (R55, R56; 93 part 3: "a model lets the clocks advance by a draw
between any two steps"). -/
def tick (d : Draw) (s : State) : State :=
  { s with micros := s.micros + d.us, millis := s.millis + d.ms }

/-- `DelayMicros(n)` (R57): the microsecond clock moves by `n` and an unconstrained excess, the draw's. -/
def delay (n : Nat) (d : Draw) (s : State) : State :=
  { s with micros := s.micros + n + d.us, millis := s.millis + d.ms }

/-- What `Millis()` answers (R56): the millisecond clock, or `floor(Micros() / 1000)` when `CLOCK_COUPLED` (D4). -/
def readMillis (s : State) : Nat :=
  if s.straps.clockCoupled then s.micros / 1000 else s.millis

/-- What `GpioRead()` answers (R54, R58): high iff this device does not drive low and nothing else pulls the line low. -/
def lineHigh (d : Draw) (s : State) : Bool := !s.drv && !d.pulled

/-- `GpioDriveLow()` for level 0, `GpioRelease()` for level 1 (R52, R53, R142), with the cell noted as put on the wire. -/
def drivePin (level : Bool) (s : State) : State :=
  { s with drv := !level, txCells := s.txCells ++ [level] }

/-! ### The byte arrays -/

/-- `RXBUF[i]` (R40, R72). -/
def rxByte (s : State) (i : Nat) : Byte := s.rxBuf.getD i 0

/-- `RXBUF[RXIDX] <- b` (R177). -/
def storeBody (b : Byte) (s : State) : State :=
  { s with rxBuf := s.rxBuf.set s.rxIdx b, rxIdx := s.rxIdx + 1 }

/-- `PEND.payload[0 .. n-1] <- payload[0 .. n-1]` (R206): the bytes from `n` on keep their values. -/
def copyPayload (old payload : List Byte) (n : Nat) : List Byte :=
  payload.take n ++ old.drop n

/-! ### Fields of a complete body (R195) -/

/-- `TYPE = RXBUF[0]`. -/
def bodyType (s : State) : Byte := rxByte s 0
/-- `ID = RXBUF[1]`. -/
def bodyId (s : State) : Byte := rxByte s 1
/-- `n = RXLEN - 3`. -/
def bodySize (s : State) : Nat := payloadSize s.rxLen
/-- `PAYLOAD = RXBUF[2 .. RXLEN-2]`. -/
def bodyPayload (s : State) : List Byte := (s.rxBuf.drop 2).take (bodySize s)
/-- `CHECKSUM = RXBUF[RXLEN-1]`. -/
def bodyChecksum (s : State) : Byte := rxByte s (s.rxLen.toNat - 1)

/-! ### The host-side outputs -/

/-- `respond(v)` (R51). -/
def respond (v : Response) (s : State) : State :=
  { s with responses := s.responses ++ [v] }

/-- `event(id, type, payload, len)` (R51, R275). -/
def raiseEvent (e : Event) (s : State) : State :=
  { s with events := s.events ++ [e] }

/-- The block's next supplier call is the one at position `p`; `.idle` ends the command (R46, R50). -/
def goTo (p : Pos) (s : State) : State := { s with seq := p }

end Sys2Proof.Machine
end

