-- ==== Sys2Proof/Machine/Flags.lean ====
section
/-! DEFINITION. The one-bit state of the block and the tests made of it (R42): the pending slot, the duplicate filter, the peer
flag, the handler enable. "The block has no condition codes." -/
namespace Sys2Proof.Machine

/-- "a transmission is pending, requires acknowledgment" (R199, R207). -/
def pendWaits (s : State) : Bool := s.pend.active && s.pend.needAck

/-- The slot is free and a SEND asks for it (R206). -/
def claimsSlot (ack : Bool) (s : State) : Bool := ack && !s.pend.active

/-- `PEND.active <- 0` (R199, R207): the other PEND fields keep their values. -/
def releaseSlot (s : State) : State := { s with pend := { s.pend with active := false } }

/-- `LASTVALID = 1 and LASTID = ID` (R200, R32). -/
def isDuplicate (id : Byte) (s : State) : Bool := s.lastValid && (s.lastId == id)

/-- `LASTID <- ID ; LASTVALID <- 1` (R200). -/
def acceptId (id : Byte) (s : State) : State := { s with lastId := id, lastValid := true }

/-- `PEERID <- v ; PEERKNOWN <- 1` (R198). -/
def recordPeer (v : Byte) (s : State) : State := { s with peerId := v, peerKnown := true }

/-- `dup <- v` (R45, R196). -/
def setDup (v : Bool) (s : State) : State := { s with tmp := { s.tmp with dup := v } }

/-- `HANDLER_EN <- 1` (R231, R26). -/
def enableHandler (s : State) : State := { s with handlerEn := true }

end Sys2Proof.Machine
end

