-- ==== Sys2Proof/Machine/FrameCodec.lean ====
section
/-! DEFINITION. The pure part of the frame codec family (42_frame_codec.md): FC.ENCODE, FC.VALIDATE, and the register
effects of the reassembly states. FC.TXFRAME and the last body byte of FC.RXSTEP need the engine: ProtocolEngine.lean. -/
namespace Sys2Proof.Machine

/-- FC.ENCODE (R170): START, LENGTH, TYPE, MESSAGE_ID, the first `min(len, MAX_PAYLOAD)` payload bytes, CHECKSUM. -/
def encodeFrame (p : Straps) (type id : Byte) (payload : List Byte) (len : Nat) : List Byte :=
  let n := clampLen p len
  let body := payload.take n
  [Config.start, lengthOf n, type, id] ++ body ++ [crcFrame (lengthOf n) type id body]

/-- FC.VALIDATE (R178): the fold over the received LENGTH and all body bytes but the last equals the last. -/
def validBody (s : State) : Bool :=
  crcFold (s.rxLen :: s.rxBuf.take (s.rxLen.toNat - 1)) == bodyChecksum s

/-- FC.RXSTEP in `AwaitingStart` (R175). -/
def stepStart (b : Byte) (s : State) : State :=
  if b = Config.start then { s with rxState := .awaitingLength } else s

/-- FC.RXSTEP in `AwaitingLength` (R176); a length out of range is drop(c) (R263). -/
def stepLength (b : Byte) (s : State) : State :=
  if lengthInRange s.straps.maxPayload.val b then
    { s with rxLen := b, rxIdx := 0, rxState := .readingBody }
  else
    { s with rxIdx := 0, rxState := .awaitingStart }

/-- `RXIDX <- 0 ; RXSTATE <- AwaitingStart` after PE.PROCESS (R177, D28). -/
def resetReassembly (s : State) : State := { s with rxIdx := 0, rxState := .awaitingStart }

end Sys2Proof.Machine
end

