-- ==== Sys2Proof/Machine/ProtocolEngine.lean ====
section
/-! DEFINITION. The protocol engine family (43_protocol_engine.md) and FC.TXFRAME, as register effects between supplier
calls: a procedure that needs the clock or the wire leaves the block at the position (`Pos`) of that supplier call, and
BitTransport.lean takes it on from there. Procedures stand in the order of their calls, the last one first. -/
namespace Sys2Proof.Machine

/-! ### The end of a POLL -/

/-- PE.HELLOTICK up to its clock read (R210): with `HELLOINT = 0` it reads no clock and the POLL is complete. -/
def helloTick (s : State) : State :=
  if s.helloInt = 0 then goTo .idle s else goTo .helloNow s

/-- PE.RETRYTICK up to its clock read (R207): with nothing pending it reads no clock and the HELLO check follows (R212). -/
def retryTick (s : State) : State :=
  if pendWaits s then goTo .retryNow s else helloTick s

/-- FC.RXSTEP after PE.PROCESS has returned (R177), then the rest of the POLL (R212). -/
def endProcess (s : State) : State := retryTick (resetReassembly s)

/-- PE.PROCESS steps 6 and 7 (R202, R203): nothing for a duplicate; else the event, for HELLO and DATA only, if a handler
is registered. -/
def deliver (s : State) : State :=
  if s.tmp.dup then s
  else if bodyType s ≠ Config.typeAck ∧ s.handlerEn = true then
    raiseEvent { id := bodyId s, type := bodyType s, payload := bodyPayload s, len := bodySize s } s
  else s

/-! ### Sending a frame -/

/-- SEND captures its frame in the free slot (R206): the slot is not active yet, its time stamp not yet taken. -/
def captureFrame (payload : List Byte) (len : Nat) (id : Byte) (s : State) : State :=
  { s with pend := { s.pend with type := Config.typeData, id := id, len := len, retries := 0,
                                 payload := copyPayload s.pend.payload payload len } }

/-- FC.TXFRAME has returned (R171): its caller goes on. SEND captures the frame or responds (R206), PE.PROCESS delivers
(R196), PE.RETRYTICK and PE.SENDHELLO stamp the time (R207, R209). -/
def frameSent (after : After) (s : State) : State :=
  match after with
  | .send payload len id ack =>
    if claimsSlot ack s then goTo (.sendStamp id) (captureFrame payload len id s)
    else goTo .idle (respond (.byte id) s)
  | .autoAck => endProcess (deliver s)
  | .retry => goTo .retryStamp s
  | .hello => goTo .helloStamp s

/-- BT.TXBYTE for each byte of a frame (R171): at the wire level the block goes to the first byte's idle wait (R143); at
the byte level the bytes go on the channel at once (R15). -/
def sendBytes (bytes : List Byte) (after : After) (s : State) : State :=
  match s.straps.level, bytes with
  | .byte, _ => frameSent after { s with txBytes := s.txBytes ++ bytes }
  | .wire, b :: rest => goTo (.idleEnter { byte := b, rest := rest, after := after }) s
  | .wire, [] => frameSent after s

/-- FC.TXFRAME (R171). -/
def txFrame (type id : Byte) (payload : List Byte) (len : Nat) (after : After) (s : State) : State :=
  sendBytes (encodeFrame s.straps type id payload len) after s

/-! ### The message-id generator and the HELLO generator -/

/-- The value of `NEXTID` after PE.NEWID (R205, C3, D13). -/
def bumpId (skipZero : Bool) (id : Byte) : Byte :=
  if skipZero && (id + 1 == 0) then 1 else id + 1

/-- PE.NEWID (R205): its result is the `NEXTID` before the call. -/
def newId (s : State) : State := { s with nextId := bumpId s.straps.idSkipZero s.nextId }

/-- PE.SENDHELLO up to its time stamp (R209): the sole payload byte is `DEVID`. -/
def sendHello (s : State) : State :=
  txFrame Config.typeHello s.nextId [s.straps.devId] 1 .hello (newId s)

/-! ### Frame processing -/

/-- PE.PROCESS step 2 (R198). -/
def capturePeer (s : State) : State :=
  if bodyType s = Config.typeHello ∧ 1 ≤ bodySize s then recordPeer (rxByte s 2) s else s

/-- PE.PROCESS step 3 (R199). -/
def matchAck (s : State) : State :=
  if bodyType s = Config.typeAck ∧ pendWaits s = true ∧ s.pend.id = bodyId s then releaseSlot s else s

/-- PE.PROCESS step 4 (R200), `dup <- 0` before it. -/
def filterDuplicate (s : State) : State :=
  if bodyType s = Config.typeData then
    if isDuplicate (bodyId s) s then setDup true s else acceptId (bodyId s) (setDup false s)
  else setDup false s

/-- The TYPE is one of the three assigned (R103). -/
def knownType (type : Byte) : Bool :=
  type == Config.typeHello || type == Config.typeData || type == Config.typeAck

/-- PE.PROCESS (R196): a bad checksum is drop(d) (R197, R264); a validated frame of a reserved TYPE is refused (R214, U2);
else steps 2 to 4, then step 5, the automatic ACK, for every frame that is not an ACK (R201). Steps 6 and 7 follow when
the ACK is out (`frameSent`); an ACK frame has none (R203). -/
def process (s : State) : Out :=
  if validBody s = false then .next (endProcess s)
  else if knownType (bodyType s) = false then .refused .reservedFrameType
  else
    let t := filterDuplicate (matchAck (capturePeer s))
    if bodyType s = Config.typeAck then .next (endProcess (deliver t))
    else .next (txFrame Config.typeAck (bodyId s) [] 0 .autoAck t)

/-- FC.RXSTEP in `ReadingBody` (R177). -/
def stepBody (b : Byte) (s : State) : Out :=
  let t := storeBody b s
  if t.rxIdx = t.rxLen.toNat then process t else .next (retryTick t)

/-- POLL after BT.RXBYTE returned `Ok b` (R212): FC.RXSTEP (R174), then the retry tick and the HELLO check. -/
def received (b : Byte) (s : State) : Out :=
  match s.rxState with
  | .awaitingStart => .next (retryTick (stepStart b s))
  | .awaitingLength => .next (retryTick (stepLength b s))
  | .readingBody => stepBody b s

/-- POLL after BT.RXBYTE returned `Timeout` (R212, R261): "nothing arrived this cycle". -/
def timedOut (s : State) : State := retryTick s

/-! ### What follows a clock read -/

/-- SEND takes the time stamp, makes the slot active and responds (R206); the clock has just been read. -/
def fillSlot (id : Byte) (s : State) : State :=
  goTo .idle (respond (.byte id)
    { s with pend := { s.pend with lastMs := readMillis s, needAck := true, active := true } })

/-- PE.RETRYTICK with `now` read (R207): before the deadline the HELLO check follows; past it a retransmission, or, when
retries are used up, drop(e) (R265). -/
def retryDue (s : State) : State :=
  if readMillis s - s.pend.lastMs > s.ackTo then
    if s.pend.retries < s.maxRetry then
      txFrame s.pend.type s.pend.id s.pend.payload s.pend.len .retry
        { s with pend := { s.pend with retries := s.pend.retries + 1 } }
    else helloTick (releaseSlot s)
  else helloTick s

/-- PE.RETRYTICK after the retransmission (R207): `PEND.last_ms <- Millis()`, then the HELLO check (R212). -/
def retryStamped (s : State) : State :=
  helloTick { s with pend := { s.pend with lastMs := readMillis s } }

/-- PE.HELLOTICK with `now` read (R210). -/
def helloDue (s : State) : State :=
  if readMillis s - s.lastHello ≥ s.helloInt then sendHello s else goTo .idle s

/-- PE.SENDHELLO after the frame (R209): `LASTHELLO <- Millis()`; both its callers are then complete (R211, R212). -/
def helloStamped (s : State) : State :=
  goTo .idle { s with lastHello := readMillis s }

end Sys2Proof.Machine
end

