-- ==== Sys2Proof/Machine/BitTransport.lean ====
section
/-! DEFINITION. The bit transport family (41_bit_transport.md) over supplier calls. Each function below is one primitive step
(R8): the supplier call of a position, answered by the environment's draw, and the register updates up to the next
supplier call. -/
namespace Sys2Proof.Machine

/-- BT.SETBITP (R140). -/
def setBitp (p : Nat) (s : State) : State := { s with bitp := clampBitp p }

/-! ### BT.IDLEWAIT (R141) -/

/-- `hs <- Micros()`, at entry and after every low read. -/
def idleStamp (tx : Tx) (d : Draw) (s : State) : State :=
  let t := tick d s
  goTo (.idleRead tx) { t with tmp := { t.tmp with hs := t.micros } }

/-- `GpioRead()`: a low line starts the wait over, a high one asks the clock. -/
def idleRead (tx : Tx) (d : Draw) (s : State) : State :=
  let t := tick d s
  if lineHigh d t then goTo (.idleCheck tx) t else goTo (.idleLow tx) t

/-- Go to the next cell of a byte (R143). -/
def toCell : List Bool → Tx → State → State
  | c :: later, tx, s => goTo (.cellPin c later tx) s
  | [], tx, s => frameSent tx.after s

/-- `Micros() - hs >= IDLE`: the idle wait returns and the start cell follows (R143). -/
def idleCheck (tx : Tx) (d : Draw) (s : State) : State :=
  let t := tick d s
  if t.micros - t.tmp.hs ≥ idleOf t.bitp then toCell (cellsOfByte tx.byte) tx t
  else goTo (.idleRead tx) t

/-! ### BT.TXCELL and BT.TXBYTE (R142, R143) -/

/-- The pin action of a cell. -/
def cellPin (level : Bool) (later : List Bool) (tx : Tx) (d : Draw) (s : State) : State :=
  goTo (.cellDelay later tx) (drivePin level (tick d s))

/-- BT.TXBYTE has returned: FC.TXFRAME sends its next byte or returns (R171). -/
def byteSent (tx : Tx) (s : State) : State :=
  let t := { s with txBytes := s.txBytes ++ [tx.byte] }
  match tx.rest with
  | b :: rest => goTo (.idleEnter { byte := b, rest := rest, after := tx.after }) t
  | [] => frameSent tx.after t

/-- `DelayMicros(BITP)`, then the next cell, or the end of the byte. -/
def cellDelay (later : List Bool) (tx : Tx) (d : Draw) (s : State) : State :=
  let t := delay s.bitp d s
  match later with
  | c :: rest => goTo (.cellPin c rest tx) t
  | [] => byteSent tx t

/-! ### BT.RXBYTE (R145) -/

/-- BT.RXBYTE as POLL calls it (R212): at the wire level its first step reads the clock; at the byte level it returns the
next byte of the channel, or `Timeout` when none waits (R15). -/
def rxStart (s : State) : Out :=
  match s.straps.level, s.chanIn with
  | .wire, _ => .next (goTo .rxEnter s)
  | .byte, b :: rest => received b { s with chanIn := rest }
  | .byte, [] => .next (timedOut s)

/-- `t0 <- Millis()`. -/
def rxEnter (d : Draw) (s : State) : State :=
  let t := tick d s
  goTo .rxLeaveLow { t with tmp := { t.tmp with t0 := readMillis t } }

/-- A budget test of R150: `Millis() - t0 > timeout_ms` fails the call, else the wait loop goes on at `again`. -/
def rxBudget (again : Pos) (d : Draw) (s : State) : State :=
  let t := tick d s
  if readMillis t - t.tmp.t0 > t.straps.rxTimeoutMs then timedOut t else goTo again t

/-- Phase (a) (R146): a low line is waited out. -/
def rxLeaveLow (d : Draw) (s : State) : State :=
  let t := tick d s
  if lineHigh d t then goTo .rxWatch t else goTo .rxLeaveLowBudget t

/-- Phase (b) (R147): the falling edge. -/
def rxWatch (d : Draw) (s : State) : State :=
  let t := tick d s
  if lineHigh d t then goTo .rxWatchBudget t else goTo .rxEdge t

/-- `edge <- Micros()` (R147, D10). -/
def rxEdge (d : Draw) (s : State) : State :=
  let t := tick d s
  goTo .rxGlitchDelay { t with tmp := { t.tmp with edge := t.micros } }

/-- `DelayMicros(QUARTER)` (R148). -/
def rxGlitchDelay (d : Draw) (s : State) : State :=
  goTo .rxRecheck (delay (quarterOf s.bitp) d s)

/-- Phase (c), the re-check (R148): high is a glitch (R262), low a start cell; then the first target (R149). -/
def rxRecheck (d : Draw) (s : State) : State :=
  let t := tick d s
  if lineHigh d t then goTo .rxWatch t
  else goTo (.rxTarget 0)
    { t with tmp := { t.tmp with target := firstTarget t.tmp.edge t.bitp, v := 0 } }

/-- Phase (d): `Micros() < target` (R149). -/
def rxTarget (i : Nat) (d : Draw) (s : State) : State :=
  let t := tick d s
  if t.micros < t.tmp.target then goTo (.rxTargetBudget i) t else goTo (.rxSample i) t

/-- Phase (d): sample bit `i`, advance the target, return after bit 7 (R149, R152). -/
def rxSample (i : Nat) (d : Draw) (s : State) : Out :=
  let t := tick d s
  let v := if lineHigh d t then setBit t.tmp.v i else t.tmp.v
  let u := { t with tmp := { t.tmp with v := v, target := t.tmp.target + t.bitp } }
  if i ≥ 7 then received v u else .next (goTo (.rxTarget (i + 1)) u)

/-! ### One primitive step -/

/-- The supplier call the block is at, answered by `d`, and the register updates after it (R8, R46, R82). -/
def primitive (d : Draw) (s : State) : Out :=
  match s.seq with
  | .idle => .next s
  | .idleEnter tx => .next (idleStamp tx d s)
  | .idleRead tx => .next (idleRead tx d s)
  | .idleLow tx => .next (idleStamp tx d s)
  | .idleCheck tx => .next (idleCheck tx d s)
  | .cellPin level later tx => .next (cellPin level later tx d s)
  | .cellDelay later tx => .next (cellDelay later tx d s)
  | .rxEnter => .next (rxEnter d s)
  | .rxLeaveLow => .next (rxLeaveLow d s)
  | .rxLeaveLowBudget => .next (rxBudget .rxLeaveLow d s)
  | .rxWatch => .next (rxWatch d s)
  | .rxWatchBudget => .next (rxBudget .rxWatch d s)
  | .rxEdge => .next (rxEdge d s)
  | .rxGlitchDelay => .next (rxGlitchDelay d s)
  | .rxRecheck => .next (rxRecheck d s)
  | .rxTarget i => .next (rxTarget i d s)
  | .rxTargetBudget i => .next (rxBudget (.rxTarget i) d s)
  | .rxSample i => rxSample i d s
  | .sendStamp id => .next (fillSlot id (tick d s))
  | .retryNow => .next (retryDue (tick d s))
  | .retryStamp => .next (retryStamped (tick d s))
  | .helloNow => .next (helloDue (tick d s))
  | .helloStamp => .next (helloStamped (tick d s))

end Sys2Proof.Machine
end

