-- ==== Sys2Proof/Machine/Sequencer.lean ====
section
/-! DEFINITION. Running a command (R8, R46, R82): its primitive steps in order, each answered by the environment's next draw, as
far as draws are listed; where they end inside the command, the block is left at that position and the next `step`
takes it on. No loop of the spec is cut short, and none needs a bound. -/
namespace Sys2Proof.Machine

/-- Receive the listed bytes, each by a POLL that catches it (R212: "a frame of `n + 5` bytes needs `n + 5` POLLs that each
catch their byte"), until one of the POLLs is at a supplier call. -/
def receiveAll : List Byte → State → Out
  | [], s => .next { s with feed := [] }
  | b :: rest, s =>
    andThen (received b { s with feed := rest }) fun t =>
      if t.seq.isIdle then receiveAll rest t else .next t

/-- One primitive step; when it completes a POLL and bytes of a received frame remain, the next POLL begins. -/
def advance (d : Draw) (s : State) : Out :=
  andThen (primitive d s) fun t => if t.seq.isIdle then receiveAll t.feed t else .next t

/-- Primitive steps, one per listed draw, until the command is complete or the list ends. -/
def run : List Draw → State → Out
  | [], s => .next { s with env := [] }
  | d :: rest, s =>
    if s.seq.isIdle then .next { s with env := d :: rest }
    else andThen (advance d s) (run rest)

/-- Run the command the block has begun. -/
def runCommand (s : State) : Out := run s.env s

/-- Let the block begin a command at `o`, then run it. -/
def begin (o : Out) : Out := andThen o runCommand

/-- The draw the environment makes when none is listed (log 3): free values, fresh at each use. -/
def freeDraw (n : Nat) : Draw where
  us     := Config.freeMicros n
  ms     := Config.freeMillis n
  pulled := Config.freePulled n

/-- Go on with a running command: over the listed draws, or, when none is listed, over one free draw. -/
def resume (s : State) : Out :=
  match s.env with
  | [] => run [freeDraw s.freeCtr] { s with freeCtr := s.freeCtr + 1 }
  | env => run env s

end Sys2Proof.Machine
end

