-- ==== Sys2Proof/Machine/EngineCommands.lean ====
section
/-! DEFINITION. The host commands of the engine: INIT, POLL, SEND (R211, R212, R206). -/
namespace Sys2Proof.Machine

/-- INIT (R211, D20). -/
def execInit (hello : Bool) (s : State) : Out :=
  if hello then begin (.next (sendHello s)) else .next s

/-- POLL (R212). -/
def execPoll (s : State) : Out := begin (rxStart s)

/-- SEND (R206): clamp, new id, the DATA frame, then the slot or the response (`frameSent`). Fewer bytes than
`min(len, MAX_PAYLOAD)` are refused (U7). -/
def execSend (payload : List Byte) (len : Nat) (ack : Bool) (s : State) : Out :=
  let n := clampLen s.straps len
  if payload.length < n then .refused .payloadTooShort
  else begin (.next (txFrame Config.typeData s.nextId payload n (.send payload n s.nextId ack) (newId s)))

end Sys2Proof.Machine
end

