-- ==== Sys2Proof/Machine/HostInterface.lean ====
section
/-! DEFINITION. The configuration and accessor commands (44_host_interface.md, R231 to R239). -/
namespace Sys2Proof.Machine

/-- SETHANDLER (R231). -/
def execSethandler (s : State) : Out := .next (enableHandler s)

/-- SETQ (R232): the bit period through BT.SETBITP, then `ACKTO <- acktoOf(BITP)`; a level outside 1..4 is refused
(R236, U1). -/
def execSetq (level : Nat) (s : State) : Out :=
  match qualityOfLevel level with
  | none => .refused .qualityOutOfRange
  | some q =>
    let t := setBitp (qualityBitp q) s
    .next { t with ackTo := ackToOf t.bitp }

/-- SETACKTO (R233). -/
def execSetackto (ms : Nat) (s : State) : Out := .next { s with ackTo := ms }

/-- SETMAXRETRY (R234). -/
def execSetmaxretry (n : Nat) (s : State) : Out := .next { s with maxRetry := n }

/-- SETHELLOINT (R235). -/
def execSethelloint (ms : Nat) (s : State) : Out := .next { s with helloInt := ms }

/-- GETID (R237). -/
def execGetid (s : State) : Out := .next (respond (.byte s.straps.devId) s)

/-- GETPEERID (R238): while `PEERKNOWN = 0` the answer is any value (R33, U4), a free value fresh at each read. -/
def execGetpeerid (s : State) : Out :=
  if s.peerKnown then .next (respond (.byte s.peerId) s)
  else .next (respond (.byte (Config.freePeerId s.freeCtr)) { s with freeCtr := s.freeCtr + 1 })

/-- GETPEERKNOWN (R239). -/
def execGetpeerknown (s : State) : Out := .next (respond (.bit s.peerKnown) s)

end Sys2Proof.Machine
end

