-- ==== Sys2Proof/Machine/WireFormats.lean ====
section
/-! DEFINITION. The four wire rows of the opcode table as the receiver executes them (log 6): a byte is taken by a POLL
whose BT.RXBYTE returns it (R145, R212, R15), a frame by one such POLL a byte (R180, R196). -/
namespace Sys2Proof.Machine

/-- The bytes of a received frame, each taken by a POLL (R212, R174 to R180, R195 to R204). DESIGN CHOICE (log 6): at the
byte level they are received ahead of bytes that wait in `chanIn`, which stay there; the spec names no agent that executes
a row, and so no order between a row and the channel. -/
def receiveFrame (bytes : List Byte) (s : State) : Out := begin (receiveAll bytes s)

/-- BYTE: one POLL receives the byte (R145, R212, R174). -/
def execByte (b : Byte) (s : State) : Out := receiveFrame [b] s

/-- HELLO as received: peer capture R198, automatic ACK R201, event R203. -/
def execHello (length id : Byte) (payload : List Byte) (checksum : Byte) (s : State) : Out :=
  receiveFrame (frameBytes length Config.typeHello id payload checksum) s

/-- DATA as received: duplicate filter R200, automatic ACK R201, event R203. -/
def execData (length id : Byte) (payload : List Byte) (checksum : Byte) (s : State) : Out :=
  receiveFrame (frameBytes length Config.typeData id payload checksum) s

/-- ACK as received: it may clear the pending slot, and reaches neither the handler nor the wire (R199, R203). -/
def execAck (length id : Byte) (payload : List Byte) (checksum : Byte) (s : State) : Out :=
  receiveFrame (frameBytes length Config.typeAck id payload checksum) s

/-! ### What the opcode table does not name: "The wire has no encoding that traps" (R109) -/

/-- Where a receiver is while it listens: watching for a falling edge, with the last level seen; or inside a byte, with the
levels sampled so far. -/
inductive Hearing where
  | watching (last : Bool)
  | sampling (bits : List Bool)
  deriving DecidableEq, Repr

/-- The bytes a receiver hears in a row of levels, each held one bit period, on a line that is high after them (log 30): an
edge starts a byte (R147), the next eight levels are its bits (R149), and watching goes on from the level of bit 7
(R77, R146); "It does not look at the stop cell" (R152). -/
def hear : Hearing → List Bool → List Byte
  | .watching _, [] => []
  | .sampling bits, [] => [byteOfBits (bits ++ List.replicate (8 - bits.length) true)]
  | .watching last, c :: later =>
    if last && !c then hear (.sampling []) later else hear (.watching c) later
  | .sampling bits, c :: later =>
    if bits.length < 7 then hear (.sampling (bits ++ [c])) later
    else byteOfBits (bits ++ [c]) :: hear (.watching c) later

/-- The same on a line that is high before them. -/
def bytesHeard (cells : List Bool) : List Byte := hear (.watching true) cells

/-- An item the decoder turns away. A frame item is received byte by byte all the same, whatever its bytes are (R109, R175 to
R179), and so are the bytes heard in a row of levels; only a reserved command code is refused (R240, U3). -/
def receiveStray (item : Item) (s : State) : Out :=
  match item with
  | .cmd _ => .refused .reservedCommand
  | .frame bytes => receiveFrame bytes s
  | .cells cells => receiveFrame (bytesHeard cells) s

end Sys2Proof.Machine
end

