-- ==== Sys2Proof/Machine/Dispatch.lean ====
section
/-! DEFINITION. One arm per constructor of Instr: the meaning of each row of the opcode table. -/
namespace Sys2Proof.Machine

def exec (i : Instr) (s : State) : Host.Outcome State Fault Refusal :=
  match i with
  -- the wire formats
  | .byte b => Sys2Proof.Machine.execByte b s
  | .hello length id payload checksum => Sys2Proof.Machine.execHello length id payload checksum s
  | .data length id payload checksum => Sys2Proof.Machine.execData length id payload checksum s
  | .ack length id payload checksum => Sys2Proof.Machine.execAck length id payload checksum s
  -- the engine's commands
  | .init hello => Sys2Proof.Machine.execInit hello s
  | .poll => Sys2Proof.Machine.execPoll s
  | .send payload len ack => Sys2Proof.Machine.execSend payload len ack s
  -- the configuration and accessor commands
  | .sethandler => Sys2Proof.Machine.execSethandler s
  | .setq level => Sys2Proof.Machine.execSetq level s
  | .setackto ms => Sys2Proof.Machine.execSetackto ms s
  | .setmaxretry n => Sys2Proof.Machine.execSetmaxretry n s
  | .sethelloint ms => Sys2Proof.Machine.execSethelloint ms s
  | .getid => Sys2Proof.Machine.execGetid s
  | .getpeerid => Sys2Proof.Machine.execGetpeerid s
  | .getpeerknown => Sys2Proof.Machine.execGetpeerknown s

end Sys2Proof.Machine
end

