-- ==== Sys2Proof/Machine/Step.lean ====
section
/-! DEFINITION. One step of the machine: go on with the running command, or accept what waits at the port (R50). -/
namespace Sys2Proof.Machine

/-- One step. A running command goes on, and nothing is accepted meanwhile (R50, U8). An idle block accepts the oldest
waiting item, decodes it and executes it; with nothing waiting it "performs no work" (R8, R300). What the opcode table
does not name is received for what it is on the wire, or refused if it is a reserved command (R109, R240). -/
def step (s : State) : Host.Outcome State Fault Refusal :=
  if ready s then
    match s.port with
    | [] => .next s
    | item :: rest =>
      match decode item with
      | .ok i => exec i { s with port := rest }
      | .error _ => receiveStray item { s with port := rest }
  else resume s

/-- `s` with the item of an opcode-table word first at the port of an idle block, so that the next step accepts it. -/
def State.withFetchWord (s : State) (nbits w : Nat) : State :=
  { s with port := itemOfWord nbits w :: s.port, seq := .idle, feed := [] }

end Sys2Proof.Machine
end

