-- ==== Sys2Proof/Machine/Link.lean ====
section
/-! DEFINITION. Two devices on one line (R9, R58, R283): each a State of its own, nothing shared but the line. The machine of
Core.lean is one device with the other inside its environment; this file says what the environment is when the other is a
second block. -/
namespace Sys2Proof.Machine

/-- The two ends of the link. -/
structure Link where
  near : State
  far  : State
  deriving DecidableEq, Repr

/-- The same link seen from the other end (R283: "Neither device is master"). -/
def Link.swap (l : Link) : Link := { near := l.far, far := l.near }

/-- The level of the line (R58, D36): high iff neither device drives it low and no noise pulls it low. -/
def Link.lineHigh (noise : Bool) (l : Link) : Bool := !l.near.drv && !l.far.drv && !noise

/-- The draw the near device meets: its clocks move by `us` and `ms`; from outside, the peer's drive or noise pulls the
line (R58). -/
def Link.drawFor (us ms : Nat) (noise : Bool) (l : Link) : Draw where
  us     := us
  ms     := ms
  pulled := l.far.drv || noise

/-- Wire level: one primitive step of the near device, the far one at rest meanwhile (R79: "the peer or noise may change the
level between any two primitive steps"). -/
def Link.primitiveNear (us ms : Nat) (noise : Bool) (l : Link) : Host.Outcome Link Fault Refusal :=
  match advance (l.drawFor us ms noise) l.near with
  | .next t => .next { l with near := t }
  | .fault r => .fault r
  | .refused r => .refused r

/-- Byte level (R15): one step of the near device; the bytes it has sent meanwhile are on the channel to the far one, in
order. -/
def Link.stepNear (l : Link) : Host.Outcome Link Fault Refusal :=
  match step l.near with
  | .next t =>
    .next { near := t
            far := { l.far with chanIn := l.far.chanIn ++ t.txBytes.drop l.near.txBytes.length } }
  | .fault r => .fault r
  | .refused r => .refused r

end Sys2Proof.Machine
end

