-- ==== Sys2Proof/Safety.lean ====
section
/-! DEFINITION. The terms claims are stated in: the invariant of the reachable states (R60) with what it needs at every
position inside a command, and the premises about the environment that claims of completion name (R313, D34, D35). -/
namespace Sys2Proof.Machine

/-! ### Positions -/

/-- The frame a position is sending. -/
def Pos.tx? : Pos → Option Tx
  | .idleEnter tx => some tx
  | .idleRead tx => some tx
  | .idleLow tx => some tx
  | .idleCheck tx => some tx
  | .cellPin _ _ tx => some tx
  | .cellDelay _ tx => some tx
  | _ => none

/-- The position is inside the automatic ACK, PE.PROCESS step 5. -/
def Pos.sendsAck (p : Pos) : Bool :=
  match p.tx? with
  | some tx => tx.after == .autoAck
  | none => false

/-- The position is inside BT.IDLEWAIT (R141). -/
def Pos.inIdleWait : Pos → Bool
  | .idleEnter _ => true
  | .idleRead _ => true
  | .idleLow _ => true
  | .idleCheck _ => true
  | _ => false

/-- Inside BT.IDLEWAIT with `hs` taken. -/
def Pos.holdsHs : Pos → Bool
  | .idleRead _ => true
  | .idleLow _ => true
  | .idleCheck _ => true
  | _ => false

/-- Inside BT.RXBYTE with `t0` taken (R145). -/
def Pos.holdsT0 : Pos → Bool
  | .rxLeaveLow => true
  | .rxLeaveLowBudget => true
  | .rxWatch => true
  | .rxWatchBudget => true
  | .rxEdge => true
  | .rxGlitchDelay => true
  | .rxRecheck => true
  | .rxTarget _ => true
  | .rxTargetBudget _ => true
  | .rxSample _ => true
  | _ => false

/-- Inside a retransmission or its time stamp (R207). -/
def Pos.inRetry (p : Pos) : Bool :=
  match p with
  | .retryNow => true
  | .retryStamp => true
  | p => match p.tx? with
    | some tx => tx.after == .retry
    | none => false

/-! ### The invariant -/

/-- R60 (1), R21: `300 <= BITP <= 2000`. -/
def BitpOk (s : State) : Prop := 300 ≤ s.bitp ∧ s.bitp ≤ 2000

/-- R60 (2), R34 to R36. -/
def PendOk (s : State) : Prop :=
  s.pend.active = true →
    s.pend.needAck = true ∧ s.pend.type = Config.typeData ∧ s.pend.len ≤ s.straps.maxPayload.val

/-- The arrays have their sizes (R40, R41). -/
def ArraysOk (s : State) : Prop :=
  s.rxBuf.length = maxBody s.straps ∧ s.pend.payload.length = s.straps.maxPayload.val

/-- R60 (3) and (4), R29, R30; while the automatic ACK goes out the body is complete and not yet reset (R177, R275), and it
is a HELLO or DATA body (R201). -/
def ReassemblyOk (s : State) : Prop :=
  (s.rxState = .readingBody →
    3 ≤ s.rxLen.toNat ∧ s.rxLen.toNat ≤ maxBody s.straps ∧
      (s.seq.sendsAck = false → s.rxIdx < s.rxLen.toNat)) ∧
  (s.rxState ≠ .readingBody → s.rxIdx = 0) ∧
  (s.seq.sendsAck = true →
    s.rxState = .readingBody ∧ s.rxIdx = s.rxLen.toNat ∧
      (bodyType s = Config.typeHello ∨ bodyType s = Config.typeData))

/-- R60 (5), R44: the pin is released outside the cells of BT.TXBYTE, whose last cell is the released stop cell (R143). -/
def PinOk (s : State) : Prop :=
  match s.seq with
  | .cellPin level later _ => (level :: later).getLast? = some true
  | .cellDelay [] _ => s.drv = false
  | .cellDelay later _ => later.getLast? = some true
  | _ => s.drv = false

/-- Time stamps lie in the past (R10, R55, R56), so that no difference of R16 borrows. -/
def StampsOk (s : State) : Prop :=
  (s.pend.active = true → s.pend.lastMs ≤ readMillis s) ∧
  s.lastHello ≤ readMillis s ∧
  (s.seq.holdsHs = true → s.tmp.hs ≤ s.micros) ∧
  (s.seq.holdsT0 = true → s.tmp.t0 ≤ readMillis s)

/-- What a position carries fits (R206, R207, R145): SEND's clamped length and its bytes, the captured frame
at its time stamp, a pending slot during a retransmission, a bit number below 8; between commands no received byte
waits. -/
def PositionOk (s : State) : Prop :=
  (∀ tx payload len id ack, s.seq.tx? = some tx → tx.after = .send payload len id ack →
    len ≤ s.straps.maxPayload.val ∧ len ≤ payload.length) ∧
  (∀ id, s.seq = .sendStamp id →
    s.pend.type = Config.typeData ∧ s.pend.id = id ∧ s.pend.len ≤ s.straps.maxPayload.val) ∧
  (s.seq.inRetry = true → s.pend.active = true) ∧
  (∀ i, s.seq = .rxTarget i ∨ s.seq = .rxTargetBudget i ∨ s.seq = .rxSample i → i < 8) ∧
  (s.seq = .idle → s.feed = [])

/-- The invariant every step keeps: R60 at every position, not only between commands. -/
structure Invariant (s : State) : Prop where
  bitp       : BitpOk s
  pend       : PendOk s
  arrays     : ArraysOk s
  reassembly : ReassemblyOk s
  pin        : PinOk s
  stamps     : StampsOk s
  position   : PositionOk s

/-! ### Premises about the environment -/

/-- Every draw finds the line free and at least the idle threshold later than the one before: a line on which nobody else
speaks, long enough at each look (the premise R313 asks for). -/
def lineFree (idle : Nat) (draws : List Draw) : Bool :=
  draws.all fun d => !d.pulled && decide (idle ≤ d.us)

/-- Every draw finds the line pulled low: a stuck line (R313). -/
def lineStuck (draws : List Draw) : Bool := draws.all fun d => d.pulled

/-- The supplier calls that send `k` bytes on a free line: three of the idle wait and two for each of ten cells a byte
(R141, R142, R143). -/
def callsToSend (k : Nat) : Nat := 23 * k

/-- No deadline is watched: nothing pending, periodic HELLO off. A POLL then does nothing beyond its receive attempt
(R207, R210). -/
def noDeadline (s : State) : Bool := !pendWaits s && s.helloInt == 0

/-- What the environment must offer for `bytes` to go out (R313): nothing at the byte level; at the wire level a released
pin and, for every supplier call of the transmission, a draw of a free line. -/
def canSend (bytes : List Byte) (s : State) : Bool :=
  match s.straps.level with
  | .byte => true
  | .wire => !s.drv && decide (callsToSend bytes.length ≤ s.env.length) &&
      lineFree (idleOf s.bitp) (s.env.take (callsToSend bytes.length))

/-- The state once `bytes` have gone out where `canSend` holds, sending being all that has happened: the bytes and, on the
wire, their cells (R100); the clocks past the draws used and ten bit periods a byte (R143); the pin released (R44); the
last `hs` of BT.IDLEWAIT, a dead transient (R45), is `hs`. -/
def sentState (bytes : List Byte) (hs : Nat) (s : State) : State :=
  match s.straps.level with
  | .byte => { s with txBytes := s.txBytes ++ bytes }
  | .wire =>
    let used := s.env.take (callsToSend bytes.length)
    { s with txBytes := s.txBytes ++ bytes
             txCells := s.txCells ++ bytes.flatMap cellsOfByte
             env := s.env.drop (callsToSend bytes.length)
             micros := s.micros + (used.map Draw.us).sum + 10 * s.bitp * bytes.length
             millis := s.millis + (used.map Draw.ms).sum
             drv := false
             tmp := { s.tmp with hs := hs } }

/-- Looks at the line, each a level read and the budget test that follows it in a wait loop (R150). -/
def looks (pairs : List (Draw × Draw)) : List Draw := pairs.flatMap fun p => [p.1, p.2]

/-- The clocks past the listed draws; nothing else moves. -/
def elapsed (ds : List Draw) (s : State) : State :=
  { s with micros := s.micros + (ds.map Draw.us).sum, millis := s.millis + (ds.map Draw.ms).sum }

/-- The looks of a wait loop of BT.RXBYTE from the clocks of `s` on (R145, R150): at each the loop's condition still holds,
for the draw and the clocks at its read, and the budget test after it does not fail the call. -/
def waits (holds : Draw → State → Bool) (t0 : Nat) : List (Draw × Draw) → State → Bool
  | [], _ => true
  | (read, test) :: later, s =>
    holds read (elapsed [read] s) &&
      decide (readMillis (elapsed [read, test] s) ≤ t0 + s.straps.rxTimeoutMs) &&
      waits holds t0 later (elapsed [read, test] s)

/-- The supplier calls that sample one bit (R149): looks at the clock before the target, the look that has reached it, the
level read. -/
structure BitLooks where
  early : List (Draw × Draw)
  reach : Draw
  level : Draw
  deriving DecidableEq, Repr

/-- Those calls in their order. -/
def BitLooks.draws (l : BitLooks) : List Draw := looks l.early ++ [l.reach, l.level]

/-- The bits of `b` from bit `i` on, each sampled at its instant `edge + BITP + HALF + i * BITP` (R149), from the clocks of `s`
on: the clock is looked at as often as it has not reached the instant, within the budget, and the line then has the level of
the bit. -/
def samples (b : Byte) (edge t0 : Nat) : Nat → List BitLooks → State → Bool
  | i, [], _ => i == 8
  | i, l :: later, s =>
    let target := edge + s.bitp + s.bitp / 2 + i * s.bitp
    waits (fun _ u => decide (u.micros < target)) t0 l.early s &&
      decide (target ≤ (elapsed (looks l.early ++ [l.reach]) s).micros) && (l.level.pulled == !b.getLsbD i) &&
      samples b edge t0 (i + 1) later (elapsed l.draws s)

/-- Where a POLL stands once its byte is processed (R212): at the clock read of the retry tick while a transmission waits for
its acknowledgment (R207), else at that of the HELLO check when `HELLOINT` is not 0 (R210), else it is complete. -/
def ticksFrom (waits : Bool) (s : State) : Pos :=
  if waits then .retryNow else if s.helloInt = 0 then .idle else .helloNow

/-- The next listed draw is used up: its time passes and the list goes on behind it. -/
def useDraw (d : Draw) (rest : List Draw) (s : State) : State := { tick d s with env := rest }

/-- `k` POLLs, one after the other. -/
def pollTimes : Nat → State → Out
  | 0, s => .next s
  | k + 1, s => andThen (exec .poll s) (pollTimes k)

/-- A body of `LENGTH` bytes stored from the start of `RXBUF`, reassembly back at its start (R177, R40). -/
def bodyStored (length : Byte) (body : List Byte) (s : State) : State :=
  { s with rxState := .awaitingStart, rxLen := length, rxIdx := 0, rxBuf := body ++ s.rxBuf.drop body.length }

/-- The automatic acknowledgment of R201: `A5 03 02 ID` and its checksum. -/
def ackBytes (id : Byte) : List Byte := [0xA5, 3, 2, id, crcFold [3, 2, id]]

/-- The state of SEND and HELLO generation once a new id is drawn (R205). -/
def idDrawn (s : State) : State :=
  { s with nextId := if s.straps.idSkipZero = true ∧ s.nextId = 255 then 1 else s.nextId + 1 }

/-- The widths an implementation may have (D4, D23, U15): the block agrees with the spec as long as every value fits. -/
structure Widths where
  clockBits : Nat
  ackTo     : Nat
  maxRetry  : Nat
  helloInt  : Nat
  deriving DecidableEq, Repr

/-- The state fits an implementation's widths (R55, R322, D4, D23). -/
def withinWidths (w : Widths) (s : State) : Bool :=
  decide (s.micros < 2 ^ w.clockBits) && decide (s.millis < 2 ^ w.clockBits) && decide (s.ackTo < 2 ^ w.ackTo) &&
    decide (s.maxRetry < 2 ^ w.maxRetry) && decide (s.helloInt < 2 ^ w.helloInt)

end Sys2Proof.Machine
end

