-- ==== Sys2Proof/Certificates/Slice0/Obligations.lean ====
section
/-! DEFINITION. The statements of this row, one `def Obligations.<Name> : Prop` each; OBLIGATIONS.json lists them. A next state
written as a record update says the whole frame: every field not named keeps its value. -/
open Sys2Proof Sys2Proof.Machine

/-! ### Encodings (30_encoding.md) -/

/-- Decoding the encoding of a well-formed instruction gives it back, for every instruction and every `MAX_PAYLOAD`
(R100, R101, R110). -/
def Obligations.DecodeInvertsEncode : Prop :=
  ∀ (maxPayload : Nat) (i : Instr), maxPayload ≤ 252 → i.wellFormed maxPayload = true →
    decode (encode i) = .ok i

/-- On the wire an encoding has one meaning: what decodes to `i` is the encoding of `i`. On the command port the operand
fields a command does not use are free (R110), and the code is the command's. -/
def Obligations.EncodeInvertsDecode : Prop :=
  (∀ cells i, decode (.cells cells) = .ok i → encode i = .cells cells) ∧
  (∀ bytes i, decode (.frame bytes) = .ok i → encode i = .frame bytes) ∧
  (∀ w i, decode (.cmd w) = .ok i → ∃ v, encode i = .cmd v ∧ v.op = w.op ∧ decode (.cmd v) = .ok i)

/-- Words written out from R100, R101 and R110 decode to what they stand for: a byte cell of each kind of level, a frame of
each TYPE, and all eleven command codes, whatever stands in the operand fields. -/
def Obligations.WordsDecodeAsTheTableSays : Prop :=
  decode (.cells [false, true, false, true, false, false, true, false, true, true]) = .ok (.byte 0xA5) ∧
  decode (.cells [false, true, true, false, false, false, false, false, false, true]) = .ok (.byte 0x03) ∧
  decode (.frame [0xA5, 0x04, 0x00, 0x01, 0x10, 0x3D]) = .ok (.hello 0x04 0x01 [0x10] 0x3D) ∧
  decode (.frame [0xA5, 0x06, 0x01, 0x02, 0x0A, 0x14, 0x1E, 0x66]) = .ok (.data 0x06 0x02 [0x0A, 0x14, 0x1E] 0x66) ∧
  decode (.frame [0xA5, 0x03, 0x02, 0x01, 0x90]) = .ok (.ack 0x03 0x01 [] 0x90) ∧
  ∀ (f : Bool) (n : Nat) (bs : List Byte),
    decode (.cmd ⟨0b0000, f, n, bs⟩) = .ok (.init f) ∧
    decode (.cmd ⟨0b0001, f, n, bs⟩) = .ok .poll ∧
    decode (.cmd ⟨0b0010, f, n, bs⟩) = .ok (.send bs n f) ∧
    decode (.cmd ⟨0b0011, f, n, bs⟩) = .ok .sethandler ∧
    decode (.cmd ⟨0b0100, f, n, bs⟩) = .ok (.setq n) ∧
    decode (.cmd ⟨0b0101, f, n, bs⟩) = .ok (.setackto n) ∧
    decode (.cmd ⟨0b0110, f, n, bs⟩) = .ok (.setmaxretry n) ∧
    decode (.cmd ⟨0b0111, f, n, bs⟩) = .ok (.sethelloint n) ∧
    decode (.cmd ⟨0b1000, f, n, bs⟩) = .ok .getid ∧
    decode (.cmd ⟨0b1001, f, n, bs⟩) = .ok .getpeerid ∧
    decode (.cmd ⟨0b1010, f, n, bs⟩) = .ok .getpeerknown

/-- A reserved command code is refused, whatever its operands (R240, R111). -/
def Obligations.ReservedCodesAreRefused : Prop :=
  ∀ s w rest, ready s = true → s.port = .cmd w :: rest → 0b1011 ≤ w.op.toNat →
    step s = .refused .reservedCommand

/-! ### Steps and the command port (R8, R46, R50) -/

/-- An idle block runs the instruction the decoder reads from the oldest waiting item; with nothing waiting it does
nothing. -/
def Obligations.StepRunsTheDecodedInstruction : Prop :=
  (∀ s item rest i, ready s = true → s.port = item :: rest → decode item = .ok i →
    step s = exec i { s with port := rest }) ∧
  (∀ s, ready s = true → s.port = [] → step s = .next s)

/-- What is offered on the wire and the decoder turns away is received all the same: the bytes of a frame item one by one
(R109; log 7), of a row of levels the bytes a receiver hears in it (R152; log 30). -/
def Obligations.WireItemsAreReceivedWhateverTheyHold : Prop :=
  ∀ (s : State) (rest : List Item) (why : Reject), ready s = true →
    (∀ bytes, s.port = .frame bytes :: rest → decode (.frame bytes) = .error why →
      step s = receiveFrame bytes { s with port := rest }) ∧
    (∀ cells, s.port = .cells cells :: rest → decode (.cells cells) = .error why →
      step s = receiveFrame (bytesHeard cells) { s with port := rest })

/-- A block that is running a command accepts nothing (R50). -/
def Obligations.BusyBlockAcceptsNothing : Prop :=
  ∀ s t, ready s = false → step s = .next t → t.port = s.port

/-! ### Checksum (40_checksum.md) -/

/-- A byte sequence followed by `c` folds to 0 exactly if `c` is its checksum: the equivalent test of R178. -/
def Obligations.ChecksumAppendedFoldsToZero : Prop :=
  ∀ (bytes : List Byte) (c : Byte), crcFold (bytes ++ [c]) = 0 ↔ c = crcFold bytes

/-- Flipping any one bit of any byte sequence changes its checksum, with certainty (R133). -/
def Obligations.OneFlippedBitChangesChecksum : Prop :=
  ∀ (bytes : List Byte) (i k : Nat), i < bytes.length → k < 8 →
    crcFold (bytes.set i (bytes.getD i 0 ^^^ ((1 : Byte) <<< k))) ≠ crcFold bytes

/-! ### Bit transport (41_bit_transport.md) -/

/-- BT.SETBITP (R140): out-of-range operands are clamped to the nearer end, the others taken as they are; nothing else
changes. -/
def Obligations.BitPeriodIsClamped : Prop :=
  ∀ p s, ∃ b, setBitp p s = { s with bitp := b } ∧ 300 ≤ b ∧ b ≤ 2000 ∧
    (p ≤ 300 → b = 300) ∧ (2000 ≤ p → b = 2000) ∧ (300 ≤ p → p ≤ 2000 → b = p)

/-- BT.TXBYTE on a free line (R141 to R143, R100): from its entry, 23 supplier calls put the start cell, the eight data
bits least significant first and the stop cell on the wire, and leave the pin released. -/
def Obligations.ByteGoesOutAsTenCells : Prop :=
  ∀ (b next : Byte) (more : List Byte) (after : After) (ds : List Draw) (s : State),
    s.seq = .idleEnter ⟨b, next :: more, after⟩ → s.drv = false → ds.length = 23 →
    lineFree (3 * s.bitp) ds = true →
    ∃ hs, run ds s = .next { s with
      seq := .idleEnter ⟨next, more, after⟩
      env := []
      txCells := s.txCells ++ [false, b.getLsbD 0, b.getLsbD 1, b.getLsbD 2, b.getLsbD 3, b.getLsbD 4,
        b.getLsbD 5, b.getLsbD 6, b.getLsbD 7, true]
      txBytes := s.txBytes ++ [b]
      micros := s.micros + (ds.map Draw.us).sum + 10 * s.bitp
      millis := s.millis + (ds.map Draw.ms).sum
      tmp := { s.tmp with hs := hs } }

/-- On a stuck line BT.IDLEWAIT never returns (R141, R313): however many supplier calls it makes, no pin action follows. -/
def Obligations.StuckLineSendsNothing : Prop :=
  ∀ (tx : Tx) (ds : List Draw) (s : State),
    s.seq = .idleEnter tx ∨ s.seq = .idleRead tx ∨ s.seq = .idleLow tx → lineStuck ds = true →
    ∃ p us ms hs, (p = .idleEnter tx ∨ p = .idleRead tx ∨ p = .idleLow tx) ∧
      run ds s = .next { s with seq := p, env := [], micros := us, millis := ms, tmp := { s.tmp with hs := hs } }

/-- The sampler (R149): inside phase (d) the target of bit `i` is `edge + BITP + HALF + i * BITP`, every primitive step
keeps it so, and a sample is taken only once the clock has reached it. -/
def Obligations.SamplesAreTakenAtTheirTargets : Prop :=
  ∀ (d : Draw) (s t : State),
    (∀ i, s.seq = .rxTarget i ∨ s.seq = .rxTargetBudget i ∨ s.seq = .rxSample i →
      s.tmp.target = s.tmp.edge + s.bitp + s.bitp / 2 + i * s.bitp) →
    primitive d s = .next t →
    (∀ i, t.seq = .rxTarget i ∨ t.seq = .rxTargetBudget i ∨ t.seq = .rxSample i →
      t.tmp.target = t.tmp.edge + t.bitp + t.bitp / 2 + i * t.bitp) ∧
    (∀ i, t.seq = .rxSample i → t.tmp.edge + t.bitp + t.bitp / 2 + i * t.bitp ≤ t.micros)

/-- A glitch (R148, R262): a low read, the edge's time stamp, a quarter bit period, and a high re-check leave the receiver
watching as before; the clocks have moved and the discarded edge's time stands in a dead transient. -/
def Obligations.GlitchLeavesNoTrace : Prop :=
  ∀ (d0 d1 d2 d3 : Draw) (more : List Draw) (s : State),
    s.seq = .rxWatch → s.drv = false → d0.pulled = true → d3.pulled = false →
    run ([d0, d1, d2, d3] ++ more) s = run more { s with
      micros := s.micros + d0.us + d1.us + (s.bitp / 4 + d2.us) + d3.us
      millis := s.millis + d0.ms + d1.ms + d2.ms + d3.ms
      tmp := { s.tmp with edge := s.micros + d0.us + d1.us } }

/-- What a receiver hears in the cells of a byte is that byte, and it does not look at the stop cell (R152): with a stop cell
that is low the byte is the same, and a low level after a high bit 7 is the next start edge (R147; log 30). -/
def Obligations.CellsAreHeardAsTheirByte : Prop :=
  ∀ b : Byte, bytesHeard (cellsOfByte b) = [b] ∧
    bytesHeard (false :: (bitsOfByte b ++ [false])) = if b.getLsbD 7 then [b, 0xFF] else [b]

/-- A wire-level POLL that meets a clean byte within its budget has the effect of receiving that byte (R145 to R150, R212): any
number of low looks (phase (a)) and of high looks (phase (b)), then the edge and a re-check that is still low; then for each
bit any number of looks at the clock before its instant `edge + BITP + HALF + i * BITP`, one that has reached it, and the
bit's level. Every budget test is within the bound. The clocks are past the calls made, the transients as they stand then. -/
def Obligations.PollReceivesTheByteOnTheWire : Prop :=
  ∀ (b : Byte) (d0 d1 d2 d3 d4 d5 : Draw) (lows highs : List (Draw × Draw)) (bits : List BitLooks) (rest : List Draw)
    (s : State),
    s.straps.level = .wire → s.seq = .idle → s.feed = [] → s.drv = false →
    let t0 := readMillis (elapsed [d0] s)
    let toEdge := d0 :: looks lows ++ d1 :: looks highs ++ [d2, d3]
    let edge := (elapsed toEdge s).micros
    let delayed := { s with micros := s.micros + s.bitp / 4 }
    let calls := toEdge ++ [d4, d5] ++ bits.flatMap BitLooks.draws
    waits (fun d _ => d.pulled) t0 lows (elapsed [d0] s) = true → d1.pulled = false →
    waits (fun d _ => !d.pulled) t0 highs (elapsed (d0 :: looks lows ++ [d1]) s) = true → d2.pulled = true →
    d5.pulled = true →
    samples b edge t0 0 bits (elapsed (toEdge ++ [d4, d5]) delayed) = true →
    s.env = calls ++ rest →
    exec .poll s = exec (.byte b) { elapsed calls delayed with
      env := rest
      tmp := { s.tmp with t0 := t0, edge := edge, target := edge + s.bitp + s.bitp / 2 + 8 * s.bitp, v := b } }

/-- A POLL on a quiet line with no deadline watched ends in `Timeout` and changes no register (R147, R212, R261): clocks
and the transients of BT.RXBYTE apart. -/
def Obligations.PollOnQuietLineChangesNothing : Prop :=
  ∀ s, s.straps.level = .wire → s.seq = .idle → s.feed = [] → s.drv = false → noDeadline s = true →
    2 * s.straps.rxTimeoutMs + 5 ≤ s.env.length →
    (∀ d ∈ s.env, d.pulled = false ∧ 1 ≤ d.ms ∧ 1000 ≤ d.us) →
    ∃ us ms t0 env, exec .poll s =
      .next { s with env := env, micros := us, millis := ms, tmp := { s.tmp with t0 := t0 } }

/-! ### Frame codec (42_frame_codec.md) -/

/-- FC.ENCODE (R170): the layout of R101 for every type and the first `min(len, MAX_PAYLOAD)` bytes, LENGTH and CHECKSUM as
R102 and R106 give them; the HELLO, DATA and ACK frames it makes are well formed for every receiver with the same
`MAX_PAYLOAD`. -/
def Obligations.EncodedFramesAreWellFormed : Prop :=
  ∀ (p : Straps) (type id : Byte) (payload : List Byte) (len : Nat), min len p.maxPayload.val ≤ payload.length →
    let n := min len p.maxPayload.val
    let body := payload.take n
    ∃ l c, encodeFrame p type id payload len = [0xA5, l, type, id] ++ body ++ [c] ∧
      l.toNat = n + 3 ∧ c = crcFold ([l, type, id] ++ body) ∧
      (encodeFrame p type id payload len).length = n + 5 ∧
      (type = 0 → Instr.wellFormed p.maxPayload.val (.hello l id body c) = true) ∧
      (type = 1 → Instr.wellFormed p.maxPayload.val (.data l id body c) = true) ∧
      (type = 2 → Instr.wellFormed p.maxPayload.val (.ack l id body c) = true)

/-- FC.RXSTEP in `AwaitingStart` and `AwaitingLength` (R175, R176), in every state: the registers named and nothing else, and
the POLL goes on with the retry tick, the HELLO check, or is complete (R212). -/
def Obligations.ReassemblyStepsAsStated : Prop :=
  ∀ (b : Byte) (s : State),
    let next := ticksFrom (s.pend.active && s.pend.needAck) s
    (s.rxState = .awaitingStart → received b s = .next
      { s with rxState := if b = 0xA5 then .awaitingLength else .awaitingStart, seq := next }) ∧
    (s.rxState = .awaitingLength → b.toNat < 3 ∨ s.straps.maxPayload.val + 3 < b.toNat →
      received b s = .next { s with rxIdx := 0, rxState := .awaitingStart, seq := next }) ∧
    (s.rxState = .awaitingLength → 3 ≤ b.toNat → b.toNat ≤ s.straps.maxPayload.val + 3 →
      received b s = .next { s with rxLen := b, rxIdx := 0, rxState := .readingBody, seq := next })

/-- A byte received outside a frame's last body byte moves the reassembly as R175 to R177 say and nothing else. -/
def Obligations.ByteMovesReassembly : Prop :=
  ∀ (b : Byte) (s : State), s.seq = .idle → s.feed = [] → noDeadline s = true →
    (s.rxState = .awaitingStart → b = 0xA5 → exec (.byte b) s = .next { s with rxState := .awaitingLength }) ∧
    (s.rxState = .awaitingStart → b ≠ 0xA5 → exec (.byte b) s = .next s) ∧
    (s.rxState = .awaitingLength → 3 ≤ b.toNat → b.toNat ≤ s.straps.maxPayload.val + 3 →
      exec (.byte b) s = .next { s with rxLen := b, rxIdx := 0, rxState := .readingBody }) ∧
    (s.rxState = .awaitingLength → b.toNat < 3 ∨ s.straps.maxPayload.val + 3 < b.toNat →
      exec (.byte b) s = .next { s with rxIdx := 0, rxState := .awaitingStart }) ∧
    (s.rxState = .readingBody → s.rxIdx + 1 ≠ s.rxLen.toNat →
      exec (.byte b) s = .next { s with rxBuf := s.rxBuf.set s.rxIdx b, rxIdx := s.rxIdx + 1 })

/-- A frame with a wrong checksum is stored and dropped (R197, R264): no acknowledgment, no event, no register beyond the
reassembly's. -/
def Obligations.CorruptFrameIsDropped : Prop :=
  ∀ (length id checksum : Byte) (payload : List Byte) (s : State),
    s.seq = .idle → s.feed = [] → noDeadline s = true → s.rxState = .awaitingStart →
    s.rxBuf.length = maxBody s.straps →
    3 ≤ length.toNat → length.toNat ≤ s.straps.maxPayload.val + 3 → payload.length + 3 = length.toNat →
    (checksum ≠ crcFrame length 0 id payload →
      exec (.hello length id payload checksum) s =
        .next (bodyStored length ([0, id] ++ payload ++ [checksum]) s)) ∧
    (checksum ≠ crcFrame length 1 id payload →
      exec (.data length id payload checksum) s =
        .next (bodyStored length ([1, id] ++ payload ++ [checksum]) s)) ∧
    (checksum ≠ crcFrame length 2 id payload →
      exec (.ack length id payload checksum) s =
        .next (bodyStored length ([2, id] ++ payload ++ [checksum]) s))

/-- One flipped bit in the TYPE, MESSAGE_ID, PAYLOAD or CHECKSUM byte of a frame the encoder made: the frame is dropped
(R180, R133; the checksum's expansion R130 is log 12). -/
def Obligations.OneFlippedBitDropsTheFrame : Prop :=
  ∀ (type id : Byte) (payload : List Byte) (j k : Nat) (s : State),
    s.seq = .idle → s.feed = [] → noDeadline s = true → s.rxState = .awaitingStart →
    s.rxBuf.length = maxBody s.straps → payload.length ≤ s.straps.maxPayload.val →
    2 ≤ j → j < payload.length + 5 → k < 8 →
    let sent := encodeFrame s.straps type id payload payload.length
    let got := sent.set j (sent.getD j 0 ^^^ ((1 : Byte) <<< k))
    receiveFrame got s = .next (bodyStored (lengthOf payload.length) (got.drop 2) s)

/-- A byte other than START is discarded (R175, R109): bytes on the wire among which no START stands change nothing. -/
def Obligations.BytesWithoutStartAreDiscarded : Prop :=
  ∀ (bytes : List Byte) (rest : List Item) (s : State),
    s.seq = .idle → s.feed = [] → noDeadline s = true → s.rxState = .awaitingStart →
    s.port = .frame bytes :: rest → 0xA5 ∉ bytes → step s = .next { s with port := rest }

/-- A frame on the wire whose TYPE is 3..255 is dropped like any other when its checksum is wrong (R197, U2), and refused when
it validates (R214, log 11). -/
def Obligations.UnassignedTypeIsDroppedUnlessItValidates : Prop :=
  ∀ (length type id checksum : Byte) (payload : List Byte) (rest : List Item) (s : State),
    s.seq = .idle → s.feed = [] → noDeadline s = true → s.rxState = .awaitingStart →
    s.rxBuf.length = maxBody s.straps → 3 ≤ type.toNat →
    3 ≤ length.toNat → length.toNat ≤ s.straps.maxPayload.val + 3 → payload.length + 3 = length.toNat →
    s.port = .frame ([0xA5, length, type, id] ++ payload ++ [checksum]) :: rest →
    (checksum ≠ crcFold ([length, type, id] ++ payload) →
      step s = .next (bodyStored length ([type, id] ++ payload ++ [checksum]) { s with port := rest })) ∧
    (checksum = crcFold ([length, type, id] ++ payload) → step s = .refused .reservedFrameType)

/-- A validated body of a reserved TYPE is refused (R214, U2). -/
def Obligations.ReservedTypeIsRefused : Prop :=
  ∀ (b : Byte) (s : State), s.rxState = .readingBody → s.rxIdx + 1 = s.rxLen.toNat →
    crcFold (s.rxLen :: (s.rxBuf.set s.rxIdx b).take s.rxIdx) = (s.rxBuf.set s.rxIdx b).getD s.rxIdx 0 →
    3 ≤ ((s.rxBuf.set s.rxIdx b).getD 0 0).toNat →
    exec (.byte b) s = .refused .reservedFrameType

/-! ### Protocol engine (43_protocol_engine.md) -/

/-- PE.PROCESS step 1 (R197), in every state: a body whose checksum does not match changes no register beyond the reassembly's
(R177), sends nothing and raises nothing; the POLL goes on with the retry tick, the HELLO check, or is complete (R212). -/
def Obligations.BadChecksumStopsProcessing : Prop :=
  ∀ s : State,
    crcFold (s.rxLen :: s.rxBuf.take (s.rxLen.toNat - 1)) ≠ s.rxBuf.getD (s.rxLen.toNat - 1) 0 →
    process s = .next { s with
      rxState := .awaitingStart
      rxIdx := 0
      seq := ticksFrom (s.pend.active && s.pend.needAck) s }

/-- PE.PROCESS step 3 (R199), in every state: a validated ACK body clears `PEND.active` if a transmission is pending, requires
acknowledgment and has this id, and does nothing else; the POLL goes on with the retry tick of what is still pending, the
HELLO check, or is complete (R212). -/
def Obligations.AckMatchingAsStated : Prop :=
  ∀ s : State,
    crcFold (s.rxLen :: s.rxBuf.take (s.rxLen.toNat - 1)) = s.rxBuf.getD (s.rxLen.toNat - 1) 0 →
    s.rxBuf.getD 0 0 = 2 →
    let still := s.pend.active && !(s.pend.needAck && s.pend.id == s.rxBuf.getD 1 0)
    process s = .next { s with
      rxState := .awaitingStart
      rxIdx := 0
      seq := ticksFrom (still && s.pend.needAck) s
      tmp := { s.tmp with dup := false }
      pend := { s.pend with active := still } }

/-- PE.PROCESS for a validated HELLO or DATA body, in every state, whatever is pending and whatever `HELLOINT` is: the peer is
captured (R198), the duplicate filter applied (R200), then the ACK goes out (R201), then the event is raised unless the
frame is a duplicate or no handler is registered (R202, R203, R275), then the POLL goes on with its retry tick or HELLO check
(R274 case 3). At the wire level the block first stands at the ACK's idle wait with no event raised; where the line lets the
ACK out, the rest follows. -/
def Obligations.ValidatedFrameIsAcknowledgedThenDelivered : Prop :=
  ∀ s : State,
    crcFold (s.rxLen :: s.rxBuf.take (s.rxLen.toNat - 1)) = s.rxBuf.getD (s.rxLen.toNat - 1) 0 →
    let type := s.rxBuf.getD 0 0
    let id := s.rxBuf.getD 1 0
    let n := s.rxLen.toNat - 3
    type = 0 ∨ type = 1 →
    let dup := decide (type = 1) && s.lastValid && s.lastId == id
    let captured : State := { s with
      peerKnown := s.peerKnown || decide (type = 0 ∧ 1 ≤ n)
      peerId := if type = 0 ∧ 1 ≤ n then s.rxBuf.getD 2 0 else s.peerId
      lastValid := s.lastValid || decide (type = 1)
      lastId := if type = 1 then id else s.lastId
      tmp := { s.tmp with dup := dup } }
    let delivered (t : State) : State := { t with
      events := if s.handlerEn && !dup then s.events ++ [⟨id, type, (s.rxBuf.drop 2).take n, n⟩] else s.events
      rxState := .awaitingStart
      rxIdx := 0
      seq := ticksFrom (s.pend.active && s.pend.needAck) s }
    (s.straps.level = .byte →
      process s = .next (delivered { captured with txBytes := s.txBytes ++ ackBytes id })) ∧
    (s.straps.level = .wire →
      process s = .next { captured with seq := .idleEnter ⟨0xA5, [3, 2, id, crcFold [3, 2, id]], .autoAck⟩ }) ∧
    (s.feed = [] → canSend (ackBytes id) s = true →
      ∃ hs, andThen (process s) runCommand = runCommand (delivered (sentState (ackBytes id) hs captured)))

/-- A conforming HELLO (R198, R201, R203), at either level: the peer's id is payload byte 0, if there is one; the frame is
acknowledged; the handler, if registered, gets it. -/
def Obligations.HelloIsCapturedAcknowledgedDelivered : Prop :=
  ∀ (length id checksum : Byte) (payload : List Byte) (s : State),
    s.seq = .idle → s.feed = [] → noDeadline s = true → s.rxState = .awaitingStart →
    s.rxBuf.length = maxBody s.straps →
    Instr.wellFormed s.straps.maxPayload.val (.hello length id payload checksum) = true →
    canSend (ackBytes id) s = true →
    ∃ hs, exec (.hello length id payload checksum) s =
      .next { sentState (ackBytes id) hs (bodyStored length ([0, id] ++ payload ++ [checksum])
                { s with
                  peerKnown := s.peerKnown || decide (payload ≠ [])
                  peerId := payload.headD s.peerId
                  tmp := { s.tmp with dup := false } }) with
              events := if s.handlerEn then s.events ++ [⟨id, 0, payload, payload.length⟩] else s.events }

/-- A conforming DATA frame (R200 to R203), at either level: acknowledged always, recorded as the last accepted id,
delivered to a registered handler unless it repeats that id. -/
def Obligations.DataIsFilteredAcknowledgedDelivered : Prop :=
  ∀ (length id checksum : Byte) (payload : List Byte) (s : State),
    s.seq = .idle → s.feed = [] → noDeadline s = true → s.rxState = .awaitingStart →
    s.rxBuf.length = maxBody s.straps →
    Instr.wellFormed s.straps.maxPayload.val (.data length id payload checksum) = true →
    canSend (ackBytes id) s = true →
    let dup := s.lastValid && s.lastId == id
    ∃ hs, exec (.data length id payload checksum) s =
      .next { sentState (ackBytes id) hs (bodyStored length ([1, id] ++ payload ++ [checksum])
                { s with lastValid := true, lastId := id, tmp := { s.tmp with dup := dup } }) with
              events := if s.handlerEn && !dup then s.events ++ [⟨id, 1, payload, payload.length⟩]
                        else s.events }

/-- A conforming ACK with nothing pending and no HELLO due changes nothing beyond the reassembly (R199, R203): it is
neither acknowledged nor delivered. -/
def Obligations.UnmatchedAckChangesNothing : Prop :=
  ∀ (length id checksum : Byte) (payload : List Byte) (s : State),
    s.seq = .idle → s.feed = [] → noDeadline s = true → s.rxState = .awaitingStart →
    s.rxBuf.length = maxBody s.straps →
    Instr.wellFormed s.straps.maxPayload.val (.ack length id payload checksum) = true →
    exec (.ack length id payload checksum) s =
      .next (bodyStored length ([2, id] ++ payload ++ [checksum]) { s with tmp := { s.tmp with dup := false } })

/-- A conforming ACK that carries the pending id, arriving before the deadline, clears the slot and nothing else
(R199); the retry tick of every POLL but the last reads the clock once. -/
def Obligations.MatchingAckClearsTheSlot : Prop :=
  ∀ (length id checksum : Byte) (payload : List Byte) (ds rest : List Draw) (s : State),
    s.seq = .idle → s.feed = [] → s.helloInt = 0 → s.rxState = .awaitingStart →
    s.rxBuf.length = maxBody s.straps →
    Instr.wellFormed s.straps.maxPayload.val (.ack length id payload checksum) = true →
    s.pend.active = true → s.pend.needAck = true → s.pend.id = id →
    s.env = ds ++ rest → ds.length = payload.length + 4 →
    readMillis { s with micros := s.micros + (ds.map Draw.us).sum, millis := s.millis + (ds.map Draw.ms).sum } ≤
      s.pend.lastMs + s.ackTo →
    exec (.ack length id payload checksum) s =
      .next (bodyStored length ([2, id] ++ payload ++ [checksum])
        { s with
          pend := { s.pend with active := false }
          tmp := { s.tmp with dup := false }
          micros := s.micros + (ds.map Draw.us).sum
          millis := s.millis + (ds.map Draw.ms).sum
          env := rest })

/-- The ACK that completes in a POLL wins over a deadline that has passed (R274 case 1): the slot is cleared and nothing is
retransmitted, whatever the clock says. -/
def Obligations.AckBeatsTheDeadline : Prop :=
  ∀ (b : Byte) (s : State), s.seq = .idle → s.feed = [] → s.helloInt = 0 →
    s.rxState = .readingBody → s.rxIdx + 1 = s.rxLen.toNat → 3 ≤ s.rxLen.toNat →
    s.rxLen.toNat ≤ s.rxBuf.length →
    b = crcFold (s.rxLen :: s.rxBuf.take s.rxIdx) → s.rxBuf.getD 0 0 = 2 → s.rxBuf.getD 1 0 = s.pend.id →
    s.pend.active = true → s.pend.needAck = true →
    exec (.byte b) s = .next { s with
      rxState := .awaitingStart
      rxIdx := 0
      rxBuf := s.rxBuf.set s.rxIdx b
      pend := { s.pend with active := false }
      tmp := { s.tmp with dup := false } }

/-- SEND without tracking (R206), at either level: the acknowledgment is not asked for, or the slot is taken. One DATA
frame goes out under a new id, the id is the response, the slot is untouched. -/
def Obligations.UntrackedSendGoesOutOnce : Prop :=
  ∀ (payload : List Byte) (len : Nat) (ack : Bool) (s : State),
    s.seq = .idle → s.feed = [] → min len s.straps.maxPayload.val ≤ payload.length →
    (ack && !s.pend.active) = false →
    let frame := encodeFrame s.straps 1 s.nextId payload len
    canSend frame s = true →
    ∃ hs, exec (.send payload len ack) s =
      .next { sentState frame hs (idDrawn s) with responses := s.responses ++ [.byte s.nextId] }

/-- SEND with tracking (R206), at either level: the frame goes out and its type, id, payload and length are captured with
retry count 0 and the time after the transmission. -/
def Obligations.TrackedSendFillsTheSlot : Prop :=
  ∀ (payload : List Byte) (len : Nat) (s : State),
    s.seq = .idle → s.feed = [] → min len s.straps.maxPayload.val ≤ payload.length →
    s.pend.active = false →
    let n := min len s.straps.maxPayload.val
    let frame := encodeFrame s.straps 1 s.nextId payload len
    canSend frame s = true →
    ∀ d rest, (sentState frame 0 s).env = d :: rest →
    ∃ hs, exec (.send payload len true) s =
      (let t := useDraw d rest (sentState frame hs (idDrawn s))
       .next { t with
         responses := s.responses ++ [.byte s.nextId]
         pend := { active := true, needAck := true, type := 1, id := s.nextId, len := n, retries := 0,
                   lastMs := readMillis t, payload := payload.take n ++ s.pend.payload.drop n } })

/-- The order of R206 and R82: when the environment answers no call after the frame, a tracked SEND stands at its clock read
with the frame captured, its retry count 0, the slot not active and not stamped, and no response given. -/
def Obligations.SendCapturesItsFrameBeforeTheStamp : Prop :=
  ∀ (payload : List Byte) (len : Nat) (s : State),
    s.seq = .idle → s.feed = [] → min len s.straps.maxPayload.val ≤ payload.length →
    s.pend.active = false →
    let n := min len s.straps.maxPayload.val
    let frame := encodeFrame s.straps 1 s.nextId payload len
    canSend frame s = true → (sentState frame 0 s).env = [] →
    ∃ hs, exec (.send payload len true) s = .next { sentState frame hs (idDrawn s) with
      seq := .sendStamp s.nextId
      pend := { s.pend with type := 1, id := s.nextId, len := n, retries := 0,
                            payload := payload.take n ++ s.pend.payload.drop n } }

/-- Whatever the line and the clocks do, a SEND that completes has put exactly its frame on the wire, cell by cell, and has
taken at least `13 * BITP` microseconds a byte (R143, R171, R206, R331). -/
def Obligations.CompletedSendWhateverTheLine : Prop :=
  ∀ (payload : List Byte) (len : Nat) (ack : Bool) (s t : State),
    s.straps.level = .wire → s.seq = .idle → s.feed = [] →
    exec (.send payload len ack) s = .next t → t.seq = .idle →
    let frame := encodeFrame s.straps 1 s.nextId payload len
    t.txBytes = s.txBytes ++ frame ∧ t.txCells = s.txCells ++ frame.flatMap cellsOfByte ∧
    t.responses = s.responses ++ [.byte s.nextId] ∧ t.drv = false ∧
    s.micros + (min len s.straps.maxPayload.val + 5) * (13 * s.bitp) ≤ t.micros

/-- SEND with fewer bytes than it announces is refused (U7, D26). -/
def Obligations.ShortPayloadIsRefused : Prop :=
  ∀ (payload : List Byte) (len : Nat) (ack : Bool) (s : State),
    payload.length < min len s.straps.maxPayload.val →
    exec (.send payload len ack) s = .refused .payloadTooShort

/-- INIT (R211, R209), at either level: with `hello = 0` nothing, not even `LASTHELLO` (decision D20, log 21); with
`hello = 1` one HELLO that carries `DEVID` under a new id, then the time stamp. -/
def Obligations.InitSendsHelloOnRequest : Prop :=
  (∀ s, exec (.init false) s = .next s) ∧
  (∀ s, s.seq = .idle → s.feed = [] →
    let frame := encodeFrame s.straps 0 s.nextId [s.straps.devId] 1
    canSend frame s = true →
    ∀ d rest, (sentState frame 0 s).env = d :: rest →
    ∃ hs, exec (.init true) s =
      (let t := useDraw d rest (sentState frame hs (idDrawn s))
       .next { t with lastHello := readMillis t }))

/-- PE.RETRYTICK (R207), at either level, from its clock read: before the deadline nothing; past it the identical frame again
and a new time stamp while retries remain, else the slot is freed silently (R265). -/
def Obligations.RetryTickRetransmitsOrGivesUp : Prop :=
  ∀ (d : Draw) (rest : List Draw) (s : State),
    s.seq = .retryNow → s.feed = [] → s.helloInt = 0 → s.env = d :: rest →
    let u := { useDraw d rest s with seq := .idle }
    (readMillis u ≤ s.pend.lastMs + s.ackTo → step s = .next u) ∧
    (s.pend.lastMs + s.ackTo < readMillis u → s.maxRetry ≤ s.pend.retries →
      step s = .next { u with pend := { s.pend with active := false } }) ∧
    (s.pend.lastMs + s.ackTo < readMillis u → s.pend.retries < s.maxRetry →
      let frame := encodeFrame s.straps s.pend.type s.pend.id s.pend.payload s.pend.len
      canSend frame u = true →
      ∀ d' rest', (sentState frame 0 u).env = d' :: rest' →
      ∃ hs, step s =
        (let t := useDraw d' rest' (sentState frame hs u)
         .next { t with pend := { s.pend with retries := s.pend.retries + 1, lastMs := readMillis t } }))

/-- With `maxRetries = R` and no ACK ever arriving, exactly R retransmissions of the identical frame occur, then the slot
is inactive and nothing more is sent, however many POLLs follow (R208); byte level, every clock read past the deadline. -/
def Obligations.ExactlyMaxRetryRetransmissions : Prop :=
  ∀ (k : Nat) (s : State),
    s.straps.level = .byte → s.seq = .idle → s.feed = [] → s.chanIn = [] → s.helloInt = 0 →
    s.pend.active = true → s.pend.needAck = true → s.pend.retries = 0 →
    s.pend.lastMs ≤ readMillis s → s.env.length = 2 * s.maxRetry + 1 →
    (∀ d ∈ s.env, s.ackTo < d.ms ∧ 1000 * (s.ackTo + 1) ≤ d.us) →
    ∃ t, pollTimes (s.maxRetry + 1 + k) s = .next t ∧ t.pend.active = false ∧
      t.pend.retries = s.maxRetry ∧
      t.txBytes = s.txBytes ++ (List.replicate s.maxRetry
        (encodeFrame s.straps s.pend.type s.pend.id s.pend.payload s.pend.len)).flatten

/-- PE.HELLOTICK (R210, R209), at either level, from its clock read: a HELLO once the interval has elapsed, else nothing. -/
def Obligations.HelloTickSendsWhenDue : Prop :=
  ∀ (d : Draw) (rest : List Draw) (s : State),
    s.seq = .helloNow → s.feed = [] → s.helloInt ≠ 0 → s.env = d :: rest →
    let u := { useDraw d rest s with seq := .idle }
    (readMillis u < s.lastHello + s.helloInt → step s = .next u) ∧
    (s.lastHello + s.helloInt ≤ readMillis u →
      let frame := encodeFrame s.straps 0 s.nextId [s.straps.devId] 1
      canSend frame u = true →
      ∀ d' rest', (sentState frame 0 u).env = d' :: rest' →
      ∃ hs, step s =
        (let t := useDraw d' rest' (sentState frame hs (idDrawn u))
         .next { t with lastHello := readMillis t }))

/-- POLL at the byte level (R212, R15): it receives the oldest byte of the channel; with none waiting and no deadline
watched it does nothing. -/
def Obligations.PollTakesTheOldestByte : Prop :=
  (∀ b rest s, s.straps.level = .byte → s.feed = [] → s.chanIn = b :: rest →
    exec .poll s = exec (.byte b) { s with chanIn := rest }) ∧
  (∀ s, s.straps.level = .byte → s.seq = .idle → s.feed = [] → s.chanIn = [] → noDeadline s = true →
    exec .poll s = .next s)

/-! ### Host interface (44_host_interface.md) -/

/-- SETHANDLER, SETACKTO, SETMAXRETRY, SETHELLOINT (R231, R233, R234, R235): each writes its register and nothing else, for
every operand. -/
def Obligations.SettersWriteTheirRegister : Prop :=
  ∀ (n : Nat) (s : State),
    exec .sethandler s = .next { s with handlerEn := true } ∧
    exec (.setackto n) s = .next { s with ackTo := n } ∧
    exec (.setmaxretry n) s = .next { s with maxRetry := n } ∧
    exec (.sethelloint n) s = .next { s with helloInt := n }

/-- SETQ (R232, R236): the four levels set the bit period and scale the acknowledgment timeout; another level is refused. -/
def Obligations.QualityLevelsSetPeriodAndTimeout : Prop :=
  ∀ s : State,
    exec (.setq 1) s = .next { s with bitp := 300, ackTo := 40 } ∧
    exec (.setq 2) s = .next { s with bitp := 500, ackTo := 40 } ∧
    exec (.setq 3) s = .next { s with bitp := 800, ackTo := 60 } ∧
    exec (.setq 4) s = .next { s with bitp := 1200, ackTo := 80 } ∧
    (∀ level, level = 0 ∨ 4 < level → exec (.setq level) s = .refused .qualityOutOfRange)

/-- GETID and GETPEERKNOWN, whose codes are 1000 and 1010, respond with the register and change nothing (R237, R239). -/
def Obligations.AccessorsRespond : Prop :=
  (∀ f n bs, decode (.cmd ⟨0b1000, f, n, bs⟩) = .ok .getid ∧ decode (.cmd ⟨0b1010, f, n, bs⟩) = .ok .getpeerknown) ∧
  ∀ s : State,
    exec .getid s = .next { s with responses := s.responses ++ [.byte s.straps.devId] } ∧
    exec .getpeerknown s = .next { s with responses := s.responses ++ [.bit s.peerKnown] }

/-- GETPEERID responds with PEERID once a peer is known; before that it responds with some byte, of which nothing is said
(R238, R33, U4). Only the model's count of free values moves besides. -/
def Obligations.PeerIdRespondsOnceKnown : Prop :=
  ∀ s : State, ∃ v n,
    exec .getpeerid s = .next { s with responses := s.responses ++ [.byte v], freeCtr := n } ∧
    (s.peerKnown = true → v = s.peerId ∧ n = s.freeCtr)

/-! ### The whole machine -/

/-- The invariant holds after power-up, for every choice of construction parameters (R60, R300, R301). -/
def Obligations.PowerUpEstablishesInvariant : Prop :=
  (∀ p : Straps, Invariant (State.resetWith p)) ∧ (∀ s : State, Invariant (powerUp s))

/-- Every step keeps the invariant (R60). -/
def Obligations.StepKeepsInvariant : Prop :=
  ∀ s t : State, Invariant s → step s = .next t → Invariant t

/-- Reset values the spec states (R301): for every choice of construction parameters. -/
def Obligations.ResetLeavesTheStatedValues : Prop :=
  ∀ p : Straps,
    let s := State.resetWith p
    s.straps = p ∧ s.maxRetry = p.maxRetryReset ∧ s.helloInt = p.helloIntReset ∧ s.handlerEn = false ∧
    s.rxState = .awaitingStart ∧ s.rxIdx = 0 ∧ s.nextId = 1 ∧ s.lastValid = false ∧ s.peerKnown = false ∧
    s.pend.active = false ∧ s.pend.needAck = false ∧ s.lastHello = 0 ∧ s.drv = false ∧ s.seq = .idle ∧
    (∀ level q, qualityOfLevel level = some q → p.qualityReset = q →
      exec (.setq level) s = .next s)

/-- `DEVID` and the other construction parameters never change (R20). -/
def Obligations.ConstructionParametersNeverChange : Prop :=
  ∀ s t : State, step s = .next t → t.straps = s.straps

/-- `PEERKNOWN`, `LASTVALID` and `HANDLER_EN` never go from 1 to 0 (R60 (6), R26). -/
def Obligations.FlagsAreNeverCleared : Prop :=
  ∀ s t : State, step s = .next t →
    (s.peerKnown = true → t.peerKnown = true) ∧ (s.lastValid = true → t.lastValid = true) ∧
    (s.handlerEn = true → t.handlerEn = true)

/-- The clocks never go back (R55, R56). -/
def Obligations.ClocksNeverGoBack : Prop :=
  ∀ s t : State, step s = .next t → s.micros ≤ t.micros ∧ s.millis ≤ t.millis ∧ readMillis s ≤ readMillis t

/-- Only SETQ writes `BITP`, and only 300, 500, 800 or 1200 (R21). -/
def Obligations.BitPeriodComesFromTheTable : Prop :=
  ∀ s t : State, step s = .next t → t.bitp ≠ s.bitp →
    (t.bitp = 300 ∨ t.bitp = 500 ∨ t.bitp = 800 ∨ t.bitp = 1200) ∧
    ∃ item rest level, ready s = true ∧ s.port = item :: rest ∧ decode item = .ok (.setq level)

/-- Only a SEND that asks for an acknowledgment makes the pending slot active (R34). -/
def Obligations.OnlySendClaimsTheSlot : Prop :=
  ∀ s t : State, step s = .next t → s.pend.active = false → t.pend.active = true →
    (∃ item rest payload len, ready s = true ∧ s.port = item :: rest ∧
      decode item = .ok (.send payload len true)) ∨
    (∃ tx payload len id, s.seq.tx? = some tx ∧ tx.after = .send payload len id true) ∨
    (∃ id, s.seq = .sendStamp id)

/-- Receiving, acknowledging and retransmitting draw no message id (R31, R201, R205): with periodic HELLO off, a POLL and the
reception of any byte or frame leave `NEXTID` as it is, whatever the environment does. -/
def Obligations.ReceivingDrawsNoId : Prop :=
  ∀ (i : Instr) (s t : State), s.helloInt = 0 →
    (i = .poll ∨ (∃ b, i = .byte b) ∨ (∃ l id p c, i = .hello l id p c) ∨ (∃ l id p c, i = .data l id p c) ∨
      (∃ l id p c, i = .ack l id p c)) →
    exec i s = .next t → t.nextId = s.nextId ∧ t.lastHello = s.lastHello

/-- At most one handler event per POLL (R51, R276). -/
def Obligations.PollRaisesAtMostOneEvent : Prop :=
  ∀ s t : State, s.feed = [] → exec .poll s = .next t →
    t.events = s.events ∨ ∃ e, t.events = s.events ++ [e]

/-- The handler is given HELLO and DATA frames only (R203, C4): "ACK frames never reach the handler". -/
def Obligations.OnlyHelloAndDataReachTheHandler : Prop :=
  ∀ s t : State, Invariant s → step s = .next t →
    ∃ new, t.events = s.events ++ new ∧ ∀ e ∈ new, e.type = 0 ∨ e.type = 1

/-! ### Two devices on one line (R58, R15) -/

/-- The line is a wired AND, the same level at both ends (R58): high iff neither device drives it low and no noise does. -/
def Obligations.LineIsWiredAnd : Prop :=
  ∀ (us ms : Nat) (noise : Bool) (l : Link),
    lineHigh (l.drawFor us ms noise) l.near = l.lineHigh noise ∧
    lineHigh (l.swap.drawFor us ms noise) l.far = l.lineHigh noise ∧
    (l.lineHigh noise = true ↔ l.near.drv = false ∧ l.far.drv = false ∧ noise = false)

/-- Byte level: the bytes a device sends in a step are on the channel to its peer, all of them, in order, and nothing else of
the peer changes (R15). -/
def Obligations.ByteChannelIsLossless : Prop :=
  ∀ l m : Link, l.stepNear = .next m →
    ∃ sent, m.near.txBytes = l.near.txBytes ++ sent ∧
      m.far = { l.far with chanIn := l.far.chanIn ++ sent }
end

