-- ==== Sys2Proof/Laws/State.lean ====
section
/-! SUPPORT. One lemma per field per update, so that no proof unfolds a record update. -/
namespace Sys2Proof.Machine

variable (s : State)

/-! ### goTo -/
@[simp] theorem goTo_straps (p : Pos) : (goTo p s).straps = s.straps := rfl
@[simp] theorem goTo_bitp (p : Pos) : (goTo p s).bitp = s.bitp := rfl
@[simp] theorem goTo_ackTo (p : Pos) : (goTo p s).ackTo = s.ackTo := rfl
@[simp] theorem goTo_maxRetry (p : Pos) : (goTo p s).maxRetry = s.maxRetry := rfl
@[simp] theorem goTo_helloInt (p : Pos) : (goTo p s).helloInt = s.helloInt := rfl
@[simp] theorem goTo_handlerEn (p : Pos) : (goTo p s).handlerEn = s.handlerEn := rfl
@[simp] theorem goTo_rxState (p : Pos) : (goTo p s).rxState = s.rxState := rfl
@[simp] theorem goTo_rxLen (p : Pos) : (goTo p s).rxLen = s.rxLen := rfl
@[simp] theorem goTo_rxIdx (p : Pos) : (goTo p s).rxIdx = s.rxIdx := rfl
@[simp] theorem goTo_rxBuf (p : Pos) : (goTo p s).rxBuf = s.rxBuf := rfl
@[simp] theorem goTo_nextId (p : Pos) : (goTo p s).nextId = s.nextId := rfl
@[simp] theorem goTo_lastValid (p : Pos) : (goTo p s).lastValid = s.lastValid := rfl
@[simp] theorem goTo_lastId (p : Pos) : (goTo p s).lastId = s.lastId := rfl
@[simp] theorem goTo_peerKnown (p : Pos) : (goTo p s).peerKnown = s.peerKnown := rfl
@[simp] theorem goTo_peerId (p : Pos) : (goTo p s).peerId = s.peerId := rfl
@[simp] theorem goTo_pend (p : Pos) : (goTo p s).pend = s.pend := rfl
@[simp] theorem goTo_lastHello (p : Pos) : (goTo p s).lastHello = s.lastHello := rfl
@[simp] theorem goTo_drv (p : Pos) : (goTo p s).drv = s.drv := rfl
@[simp] theorem goTo_tmp (p : Pos) : (goTo p s).tmp = s.tmp := rfl
@[simp] theorem goTo_seq (p : Pos) : (goTo p s).seq = p := rfl
@[simp] theorem goTo_feed (p : Pos) : (goTo p s).feed = s.feed := rfl
@[simp] theorem goTo_micros (p : Pos) : (goTo p s).micros = s.micros := rfl
@[simp] theorem goTo_millis (p : Pos) : (goTo p s).millis = s.millis := rfl
@[simp] theorem goTo_env (p : Pos) : (goTo p s).env = s.env := rfl
@[simp] theorem goTo_freeCtr (p : Pos) : (goTo p s).freeCtr = s.freeCtr := rfl
@[simp] theorem goTo_chanIn (p : Pos) : (goTo p s).chanIn = s.chanIn := rfl
@[simp] theorem goTo_port (p : Pos) : (goTo p s).port = s.port := rfl
@[simp] theorem goTo_responses (p : Pos) : (goTo p s).responses = s.responses := rfl
@[simp] theorem goTo_events (p : Pos) : (goTo p s).events = s.events := rfl
@[simp] theorem goTo_txCells (p : Pos) : (goTo p s).txCells = s.txCells := rfl
@[simp] theorem goTo_txBytes (p : Pos) : (goTo p s).txBytes = s.txBytes := rfl

/-! ### tick -/
@[simp] theorem tick_straps (d : Draw) : (tick d s).straps = s.straps := rfl
@[simp] theorem tick_bitp (d : Draw) : (tick d s).bitp = s.bitp := rfl
@[simp] theorem tick_ackTo (d : Draw) : (tick d s).ackTo = s.ackTo := rfl
@[simp] theorem tick_maxRetry (d : Draw) : (tick d s).maxRetry = s.maxRetry := rfl
@[simp] theorem tick_helloInt (d : Draw) : (tick d s).helloInt = s.helloInt := rfl
@[simp] theorem tick_handlerEn (d : Draw) : (tick d s).handlerEn = s.handlerEn := rfl
@[simp] theorem tick_rxState (d : Draw) : (tick d s).rxState = s.rxState := rfl
@[simp] theorem tick_rxLen (d : Draw) : (tick d s).rxLen = s.rxLen := rfl
@[simp] theorem tick_rxIdx (d : Draw) : (tick d s).rxIdx = s.rxIdx := rfl
@[simp] theorem tick_rxBuf (d : Draw) : (tick d s).rxBuf = s.rxBuf := rfl
@[simp] theorem tick_nextId (d : Draw) : (tick d s).nextId = s.nextId := rfl
@[simp] theorem tick_lastValid (d : Draw) : (tick d s).lastValid = s.lastValid := rfl
@[simp] theorem tick_lastId (d : Draw) : (tick d s).lastId = s.lastId := rfl
@[simp] theorem tick_peerKnown (d : Draw) : (tick d s).peerKnown = s.peerKnown := rfl
@[simp] theorem tick_peerId (d : Draw) : (tick d s).peerId = s.peerId := rfl
@[simp] theorem tick_pend (d : Draw) : (tick d s).pend = s.pend := rfl
@[simp] theorem tick_lastHello (d : Draw) : (tick d s).lastHello = s.lastHello := rfl
@[simp] theorem tick_drv (d : Draw) : (tick d s).drv = s.drv := rfl
@[simp] theorem tick_tmp (d : Draw) : (tick d s).tmp = s.tmp := rfl
@[simp] theorem tick_seq (d : Draw) : (tick d s).seq = s.seq := rfl
@[simp] theorem tick_feed (d : Draw) : (tick d s).feed = s.feed := rfl
@[simp] theorem tick_micros (d : Draw) : (tick d s).micros = s.micros + d.us := rfl
@[simp] theorem tick_millis (d : Draw) : (tick d s).millis = s.millis + d.ms := rfl
@[simp] theorem tick_env (d : Draw) : (tick d s).env = s.env := rfl
@[simp] theorem tick_freeCtr (d : Draw) : (tick d s).freeCtr = s.freeCtr := rfl
@[simp] theorem tick_chanIn (d : Draw) : (tick d s).chanIn = s.chanIn := rfl
@[simp] theorem tick_port (d : Draw) : (tick d s).port = s.port := rfl
@[simp] theorem tick_responses (d : Draw) : (tick d s).responses = s.responses := rfl
@[simp] theorem tick_events (d : Draw) : (tick d s).events = s.events := rfl
@[simp] theorem tick_txCells (d : Draw) : (tick d s).txCells = s.txCells := rfl
@[simp] theorem tick_txBytes (d : Draw) : (tick d s).txBytes = s.txBytes := rfl

/-! ### delay -/
@[simp] theorem delay_straps (n : Nat) (d : Draw) : (delay n d s).straps = s.straps := rfl
@[simp] theorem delay_bitp (n : Nat) (d : Draw) : (delay n d s).bitp = s.bitp := rfl
@[simp] theorem delay_ackTo (n : Nat) (d : Draw) : (delay n d s).ackTo = s.ackTo := rfl
@[simp] theorem delay_maxRetry (n : Nat) (d : Draw) : (delay n d s).maxRetry = s.maxRetry := rfl
@[simp] theorem delay_helloInt (n : Nat) (d : Draw) : (delay n d s).helloInt = s.helloInt := rfl
@[simp] theorem delay_handlerEn (n : Nat) (d : Draw) : (delay n d s).handlerEn = s.handlerEn := rfl
@[simp] theorem delay_rxState (n : Nat) (d : Draw) : (delay n d s).rxState = s.rxState := rfl
@[simp] theorem delay_rxLen (n : Nat) (d : Draw) : (delay n d s).rxLen = s.rxLen := rfl
@[simp] theorem delay_rxIdx (n : Nat) (d : Draw) : (delay n d s).rxIdx = s.rxIdx := rfl
@[simp] theorem delay_rxBuf (n : Nat) (d : Draw) : (delay n d s).rxBuf = s.rxBuf := rfl
@[simp] theorem delay_nextId (n : Nat) (d : Draw) : (delay n d s).nextId = s.nextId := rfl
@[simp] theorem delay_lastValid (n : Nat) (d : Draw) : (delay n d s).lastValid = s.lastValid := rfl
@[simp] theorem delay_lastId (n : Nat) (d : Draw) : (delay n d s).lastId = s.lastId := rfl
@[simp] theorem delay_peerKnown (n : Nat) (d : Draw) : (delay n d s).peerKnown = s.peerKnown := rfl
@[simp] theorem delay_peerId (n : Nat) (d : Draw) : (delay n d s).peerId = s.peerId := rfl
@[simp] theorem delay_pend (n : Nat) (d : Draw) : (delay n d s).pend = s.pend := rfl
@[simp] theorem delay_lastHello (n : Nat) (d : Draw) : (delay n d s).lastHello = s.lastHello := rfl
@[simp] theorem delay_drv (n : Nat) (d : Draw) : (delay n d s).drv = s.drv := rfl
@[simp] theorem delay_tmp (n : Nat) (d : Draw) : (delay n d s).tmp = s.tmp := rfl
@[simp] theorem delay_seq (n : Nat) (d : Draw) : (delay n d s).seq = s.seq := rfl
@[simp] theorem delay_feed (n : Nat) (d : Draw) : (delay n d s).feed = s.feed := rfl
@[simp] theorem delay_micros (n : Nat) (d : Draw) : (delay n d s).micros = s.micros + n + d.us := rfl
@[simp] theorem delay_millis (n : Nat) (d : Draw) : (delay n d s).millis = s.millis + d.ms := rfl
@[simp] theorem delay_env (n : Nat) (d : Draw) : (delay n d s).env = s.env := rfl
@[simp] theorem delay_freeCtr (n : Nat) (d : Draw) : (delay n d s).freeCtr = s.freeCtr := rfl
@[simp] theorem delay_chanIn (n : Nat) (d : Draw) : (delay n d s).chanIn = s.chanIn := rfl
@[simp] theorem delay_port (n : Nat) (d : Draw) : (delay n d s).port = s.port := rfl
@[simp] theorem delay_responses (n : Nat) (d : Draw) : (delay n d s).responses = s.responses := rfl
@[simp] theorem delay_events (n : Nat) (d : Draw) : (delay n d s).events = s.events := rfl
@[simp] theorem delay_txCells (n : Nat) (d : Draw) : (delay n d s).txCells = s.txCells := rfl
@[simp] theorem delay_txBytes (n : Nat) (d : Draw) : (delay n d s).txBytes = s.txBytes := rfl

/-! ### useDraw -/
@[simp] theorem useDraw_straps (d : Draw) (r : List Draw) : (useDraw d r s).straps = s.straps := rfl
@[simp] theorem useDraw_bitp (d : Draw) (r : List Draw) : (useDraw d r s).bitp = s.bitp := rfl
@[simp] theorem useDraw_ackTo (d : Draw) (r : List Draw) : (useDraw d r s).ackTo = s.ackTo := rfl
@[simp] theorem useDraw_maxRetry (d : Draw) (r : List Draw) : (useDraw d r s).maxRetry = s.maxRetry := rfl
@[simp] theorem useDraw_helloInt (d : Draw) (r : List Draw) : (useDraw d r s).helloInt = s.helloInt := rfl
@[simp] theorem useDraw_handlerEn (d : Draw) (r : List Draw) : (useDraw d r s).handlerEn = s.handlerEn := rfl
@[simp] theorem useDraw_rxState (d : Draw) (r : List Draw) : (useDraw d r s).rxState = s.rxState := rfl
@[simp] theorem useDraw_rxLen (d : Draw) (r : List Draw) : (useDraw d r s).rxLen = s.rxLen := rfl
@[simp] theorem useDraw_rxIdx (d : Draw) (r : List Draw) : (useDraw d r s).rxIdx = s.rxIdx := rfl
@[simp] theorem useDraw_rxBuf (d : Draw) (r : List Draw) : (useDraw d r s).rxBuf = s.rxBuf := rfl
@[simp] theorem useDraw_nextId (d : Draw) (r : List Draw) : (useDraw d r s).nextId = s.nextId := rfl
@[simp] theorem useDraw_lastValid (d : Draw) (r : List Draw) : (useDraw d r s).lastValid = s.lastValid := rfl
@[simp] theorem useDraw_lastId (d : Draw) (r : List Draw) : (useDraw d r s).lastId = s.lastId := rfl
@[simp] theorem useDraw_peerKnown (d : Draw) (r : List Draw) : (useDraw d r s).peerKnown = s.peerKnown := rfl
@[simp] theorem useDraw_peerId (d : Draw) (r : List Draw) : (useDraw d r s).peerId = s.peerId := rfl
@[simp] theorem useDraw_pend (d : Draw) (r : List Draw) : (useDraw d r s).pend = s.pend := rfl
@[simp] theorem useDraw_lastHello (d : Draw) (r : List Draw) : (useDraw d r s).lastHello = s.lastHello := rfl
@[simp] theorem useDraw_drv (d : Draw) (r : List Draw) : (useDraw d r s).drv = s.drv := rfl
@[simp] theorem useDraw_tmp (d : Draw) (r : List Draw) : (useDraw d r s).tmp = s.tmp := rfl
@[simp] theorem useDraw_seq (d : Draw) (r : List Draw) : (useDraw d r s).seq = s.seq := rfl
@[simp] theorem useDraw_feed (d : Draw) (r : List Draw) : (useDraw d r s).feed = s.feed := rfl
@[simp] theorem useDraw_micros (d : Draw) (r : List Draw) : (useDraw d r s).micros = s.micros + d.us := rfl
@[simp] theorem useDraw_millis (d : Draw) (r : List Draw) : (useDraw d r s).millis = s.millis + d.ms := rfl
@[simp] theorem useDraw_env (d : Draw) (r : List Draw) : (useDraw d r s).env = r := rfl
@[simp] theorem useDraw_freeCtr (d : Draw) (r : List Draw) : (useDraw d r s).freeCtr = s.freeCtr := rfl
@[simp] theorem useDraw_chanIn (d : Draw) (r : List Draw) : (useDraw d r s).chanIn = s.chanIn := rfl
@[simp] theorem useDraw_port (d : Draw) (r : List Draw) : (useDraw d r s).port = s.port := rfl
@[simp] theorem useDraw_responses (d : Draw) (r : List Draw) : (useDraw d r s).responses = s.responses := rfl
@[simp] theorem useDraw_events (d : Draw) (r : List Draw) : (useDraw d r s).events = s.events := rfl
@[simp] theorem useDraw_txCells (d : Draw) (r : List Draw) : (useDraw d r s).txCells = s.txCells := rfl
@[simp] theorem useDraw_txBytes (d : Draw) (r : List Draw) : (useDraw d r s).txBytes = s.txBytes := rfl

/-! ### drivePin -/
@[simp] theorem drivePin_straps (l : Bool) : (drivePin l s).straps = s.straps := rfl
@[simp] theorem drivePin_bitp (l : Bool) : (drivePin l s).bitp = s.bitp := rfl
@[simp] theorem drivePin_ackTo (l : Bool) : (drivePin l s).ackTo = s.ackTo := rfl
@[simp] theorem drivePin_maxRetry (l : Bool) : (drivePin l s).maxRetry = s.maxRetry := rfl
@[simp] theorem drivePin_helloInt (l : Bool) : (drivePin l s).helloInt = s.helloInt := rfl
@[simp] theorem drivePin_handlerEn (l : Bool) : (drivePin l s).handlerEn = s.handlerEn := rfl
@[simp] theorem drivePin_rxState (l : Bool) : (drivePin l s).rxState = s.rxState := rfl
@[simp] theorem drivePin_rxLen (l : Bool) : (drivePin l s).rxLen = s.rxLen := rfl
@[simp] theorem drivePin_rxIdx (l : Bool) : (drivePin l s).rxIdx = s.rxIdx := rfl
@[simp] theorem drivePin_rxBuf (l : Bool) : (drivePin l s).rxBuf = s.rxBuf := rfl
@[simp] theorem drivePin_nextId (l : Bool) : (drivePin l s).nextId = s.nextId := rfl
@[simp] theorem drivePin_lastValid (l : Bool) : (drivePin l s).lastValid = s.lastValid := rfl
@[simp] theorem drivePin_lastId (l : Bool) : (drivePin l s).lastId = s.lastId := rfl
@[simp] theorem drivePin_peerKnown (l : Bool) : (drivePin l s).peerKnown = s.peerKnown := rfl
@[simp] theorem drivePin_peerId (l : Bool) : (drivePin l s).peerId = s.peerId := rfl
@[simp] theorem drivePin_pend (l : Bool) : (drivePin l s).pend = s.pend := rfl
@[simp] theorem drivePin_lastHello (l : Bool) : (drivePin l s).lastHello = s.lastHello := rfl
@[simp] theorem drivePin_drv (l : Bool) : (drivePin l s).drv = !l := rfl
@[simp] theorem drivePin_tmp (l : Bool) : (drivePin l s).tmp = s.tmp := rfl
@[simp] theorem drivePin_seq (l : Bool) : (drivePin l s).seq = s.seq := rfl
@[simp] theorem drivePin_feed (l : Bool) : (drivePin l s).feed = s.feed := rfl
@[simp] theorem drivePin_micros (l : Bool) : (drivePin l s).micros = s.micros := rfl
@[simp] theorem drivePin_millis (l : Bool) : (drivePin l s).millis = s.millis := rfl
@[simp] theorem drivePin_env (l : Bool) : (drivePin l s).env = s.env := rfl
@[simp] theorem drivePin_freeCtr (l : Bool) : (drivePin l s).freeCtr = s.freeCtr := rfl
@[simp] theorem drivePin_chanIn (l : Bool) : (drivePin l s).chanIn = s.chanIn := rfl
@[simp] theorem drivePin_port (l : Bool) : (drivePin l s).port = s.port := rfl
@[simp] theorem drivePin_responses (l : Bool) : (drivePin l s).responses = s.responses := rfl
@[simp] theorem drivePin_events (l : Bool) : (drivePin l s).events = s.events := rfl
@[simp] theorem drivePin_txCells (l : Bool) : (drivePin l s).txCells = s.txCells ++ [l] := rfl
@[simp] theorem drivePin_txBytes (l : Bool) : (drivePin l s).txBytes = s.txBytes := rfl

/-! ### storeBody -/
@[simp] theorem storeBody_straps (b : Byte) : (storeBody b s).straps = s.straps := rfl
@[simp] theorem storeBody_bitp (b : Byte) : (storeBody b s).bitp = s.bitp := rfl
@[simp] theorem storeBody_ackTo (b : Byte) : (storeBody b s).ackTo = s.ackTo := rfl
@[simp] theorem storeBody_maxRetry (b : Byte) : (storeBody b s).maxRetry = s.maxRetry := rfl
@[simp] theorem storeBody_helloInt (b : Byte) : (storeBody b s).helloInt = s.helloInt := rfl
@[simp] theorem storeBody_handlerEn (b : Byte) : (storeBody b s).handlerEn = s.handlerEn := rfl
@[simp] theorem storeBody_rxState (b : Byte) : (storeBody b s).rxState = s.rxState := rfl
@[simp] theorem storeBody_rxLen (b : Byte) : (storeBody b s).rxLen = s.rxLen := rfl
@[simp] theorem storeBody_rxIdx (b : Byte) : (storeBody b s).rxIdx = s.rxIdx + 1 := rfl
@[simp] theorem storeBody_rxBuf (b : Byte) : (storeBody b s).rxBuf = s.rxBuf.set s.rxIdx b := rfl
@[simp] theorem storeBody_nextId (b : Byte) : (storeBody b s).nextId = s.nextId := rfl
@[simp] theorem storeBody_lastValid (b : Byte) : (storeBody b s).lastValid = s.lastValid := rfl
@[simp] theorem storeBody_lastId (b : Byte) : (storeBody b s).lastId = s.lastId := rfl
@[simp] theorem storeBody_peerKnown (b : Byte) : (storeBody b s).peerKnown = s.peerKnown := rfl
@[simp] theorem storeBody_peerId (b : Byte) : (storeBody b s).peerId = s.peerId := rfl
@[simp] theorem storeBody_pend (b : Byte) : (storeBody b s).pend = s.pend := rfl
@[simp] theorem storeBody_lastHello (b : Byte) : (storeBody b s).lastHello = s.lastHello := rfl
@[simp] theorem storeBody_drv (b : Byte) : (storeBody b s).drv = s.drv := rfl
@[simp] theorem storeBody_tmp (b : Byte) : (storeBody b s).tmp = s.tmp := rfl
@[simp] theorem storeBody_seq (b : Byte) : (storeBody b s).seq = s.seq := rfl
@[simp] theorem storeBody_feed (b : Byte) : (storeBody b s).feed = s.feed := rfl
@[simp] theorem storeBody_micros (b : Byte) : (storeBody b s).micros = s.micros := rfl
@[simp] theorem storeBody_millis (b : Byte) : (storeBody b s).millis = s.millis := rfl
@[simp] theorem storeBody_env (b : Byte) : (storeBody b s).env = s.env := rfl
@[simp] theorem storeBody_freeCtr (b : Byte) : (storeBody b s).freeCtr = s.freeCtr := rfl
@[simp] theorem storeBody_chanIn (b : Byte) : (storeBody b s).chanIn = s.chanIn := rfl
@[simp] theorem storeBody_port (b : Byte) : (storeBody b s).port = s.port := rfl
@[simp] theorem storeBody_responses (b : Byte) : (storeBody b s).responses = s.responses := rfl
@[simp] theorem storeBody_events (b : Byte) : (storeBody b s).events = s.events := rfl
@[simp] theorem storeBody_txCells (b : Byte) : (storeBody b s).txCells = s.txCells := rfl
@[simp] theorem storeBody_txBytes (b : Byte) : (storeBody b s).txBytes = s.txBytes := rfl

/-! ### respond -/
@[simp] theorem respond_straps (v : Response) : (respond v s).straps = s.straps := rfl
@[simp] theorem respond_bitp (v : Response) : (respond v s).bitp = s.bitp := rfl
@[simp] theorem respond_ackTo (v : Response) : (respond v s).ackTo = s.ackTo := rfl
@[simp] theorem respond_maxRetry (v : Response) : (respond v s).maxRetry = s.maxRetry := rfl
@[simp] theorem respond_helloInt (v : Response) : (respond v s).helloInt = s.helloInt := rfl
@[simp] theorem respond_handlerEn (v : Response) : (respond v s).handlerEn = s.handlerEn := rfl
@[simp] theorem respond_rxState (v : Response) : (respond v s).rxState = s.rxState := rfl
@[simp] theorem respond_rxLen (v : Response) : (respond v s).rxLen = s.rxLen := rfl
@[simp] theorem respond_rxIdx (v : Response) : (respond v s).rxIdx = s.rxIdx := rfl
@[simp] theorem respond_rxBuf (v : Response) : (respond v s).rxBuf = s.rxBuf := rfl
@[simp] theorem respond_nextId (v : Response) : (respond v s).nextId = s.nextId := rfl
@[simp] theorem respond_lastValid (v : Response) : (respond v s).lastValid = s.lastValid := rfl
@[simp] theorem respond_lastId (v : Response) : (respond v s).lastId = s.lastId := rfl
@[simp] theorem respond_peerKnown (v : Response) : (respond v s).peerKnown = s.peerKnown := rfl
@[simp] theorem respond_peerId (v : Response) : (respond v s).peerId = s.peerId := rfl
@[simp] theorem respond_pend (v : Response) : (respond v s).pend = s.pend := rfl
@[simp] theorem respond_lastHello (v : Response) : (respond v s).lastHello = s.lastHello := rfl
@[simp] theorem respond_drv (v : Response) : (respond v s).drv = s.drv := rfl
@[simp] theorem respond_tmp (v : Response) : (respond v s).tmp = s.tmp := rfl
@[simp] theorem respond_seq (v : Response) : (respond v s).seq = s.seq := rfl
@[simp] theorem respond_feed (v : Response) : (respond v s).feed = s.feed := rfl
@[simp] theorem respond_micros (v : Response) : (respond v s).micros = s.micros := rfl
@[simp] theorem respond_millis (v : Response) : (respond v s).millis = s.millis := rfl
@[simp] theorem respond_env (v : Response) : (respond v s).env = s.env := rfl
@[simp] theorem respond_freeCtr (v : Response) : (respond v s).freeCtr = s.freeCtr := rfl
@[simp] theorem respond_chanIn (v : Response) : (respond v s).chanIn = s.chanIn := rfl
@[simp] theorem respond_port (v : Response) : (respond v s).port = s.port := rfl
@[simp] theorem respond_responses (v : Response) : (respond v s).responses = s.responses ++ [v] := rfl
@[simp] theorem respond_events (v : Response) : (respond v s).events = s.events := rfl
@[simp] theorem respond_txCells (v : Response) : (respond v s).txCells = s.txCells := rfl
@[simp] theorem respond_txBytes (v : Response) : (respond v s).txBytes = s.txBytes := rfl

/-! ### raiseEvent -/
@[simp] theorem raiseEvent_straps (e : Event) : (raiseEvent e s).straps = s.straps := rfl
@[simp] theorem raiseEvent_bitp (e : Event) : (raiseEvent e s).bitp = s.bitp := rfl
@[simp] theorem raiseEvent_ackTo (e : Event) : (raiseEvent e s).ackTo = s.ackTo := rfl
@[simp] theorem raiseEvent_maxRetry (e : Event) : (raiseEvent e s).maxRetry = s.maxRetry := rfl
@[simp] theorem raiseEvent_helloInt (e : Event) : (raiseEvent e s).helloInt = s.helloInt := rfl
@[simp] theorem raiseEvent_handlerEn (e : Event) : (raiseEvent e s).handlerEn = s.handlerEn := rfl
@[simp] theorem raiseEvent_rxState (e : Event) : (raiseEvent e s).rxState = s.rxState := rfl
@[simp] theorem raiseEvent_rxLen (e : Event) : (raiseEvent e s).rxLen = s.rxLen := rfl
@[simp] theorem raiseEvent_rxIdx (e : Event) : (raiseEvent e s).rxIdx = s.rxIdx := rfl
@[simp] theorem raiseEvent_rxBuf (e : Event) : (raiseEvent e s).rxBuf = s.rxBuf := rfl
@[simp] theorem raiseEvent_nextId (e : Event) : (raiseEvent e s).nextId = s.nextId := rfl
@[simp] theorem raiseEvent_lastValid (e : Event) : (raiseEvent e s).lastValid = s.lastValid := rfl
@[simp] theorem raiseEvent_lastId (e : Event) : (raiseEvent e s).lastId = s.lastId := rfl
@[simp] theorem raiseEvent_peerKnown (e : Event) : (raiseEvent e s).peerKnown = s.peerKnown := rfl
@[simp] theorem raiseEvent_peerId (e : Event) : (raiseEvent e s).peerId = s.peerId := rfl
@[simp] theorem raiseEvent_pend (e : Event) : (raiseEvent e s).pend = s.pend := rfl
@[simp] theorem raiseEvent_lastHello (e : Event) : (raiseEvent e s).lastHello = s.lastHello := rfl
@[simp] theorem raiseEvent_drv (e : Event) : (raiseEvent e s).drv = s.drv := rfl
@[simp] theorem raiseEvent_tmp (e : Event) : (raiseEvent e s).tmp = s.tmp := rfl
@[simp] theorem raiseEvent_seq (e : Event) : (raiseEvent e s).seq = s.seq := rfl
@[simp] theorem raiseEvent_feed (e : Event) : (raiseEvent e s).feed = s.feed := rfl
@[simp] theorem raiseEvent_micros (e : Event) : (raiseEvent e s).micros = s.micros := rfl
@[simp] theorem raiseEvent_millis (e : Event) : (raiseEvent e s).millis = s.millis := rfl
@[simp] theorem raiseEvent_env (e : Event) : (raiseEvent e s).env = s.env := rfl
@[simp] theorem raiseEvent_freeCtr (e : Event) : (raiseEvent e s).freeCtr = s.freeCtr := rfl
@[simp] theorem raiseEvent_chanIn (e : Event) : (raiseEvent e s).chanIn = s.chanIn := rfl
@[simp] theorem raiseEvent_port (e : Event) : (raiseEvent e s).port = s.port := rfl
@[simp] theorem raiseEvent_responses (e : Event) : (raiseEvent e s).responses = s.responses := rfl
@[simp] theorem raiseEvent_events (e : Event) : (raiseEvent e s).events = s.events ++ [e] := rfl
@[simp] theorem raiseEvent_txCells (e : Event) : (raiseEvent e s).txCells = s.txCells := rfl
@[simp] theorem raiseEvent_txBytes (e : Event) : (raiseEvent e s).txBytes = s.txBytes := rfl

/-! ### setDup -/
@[simp] theorem setDup_straps (v : Bool) : (setDup v s).straps = s.straps := rfl
@[simp] theorem setDup_bitp (v : Bool) : (setDup v s).bitp = s.bitp := rfl
@[simp] theorem setDup_ackTo (v : Bool) : (setDup v s).ackTo = s.ackTo := rfl
@[simp] theorem setDup_maxRetry (v : Bool) : (setDup v s).maxRetry = s.maxRetry := rfl
@[simp] theorem setDup_helloInt (v : Bool) : (setDup v s).helloInt = s.helloInt := rfl
@[simp] theorem setDup_handlerEn (v : Bool) : (setDup v s).handlerEn = s.handlerEn := rfl
@[simp] theorem setDup_rxState (v : Bool) : (setDup v s).rxState = s.rxState := rfl
@[simp] theorem setDup_rxLen (v : Bool) : (setDup v s).rxLen = s.rxLen := rfl
@[simp] theorem setDup_rxIdx (v : Bool) : (setDup v s).rxIdx = s.rxIdx := rfl
@[simp] theorem setDup_rxBuf (v : Bool) : (setDup v s).rxBuf = s.rxBuf := rfl
@[simp] theorem setDup_nextId (v : Bool) : (setDup v s).nextId = s.nextId := rfl
@[simp] theorem setDup_lastValid (v : Bool) : (setDup v s).lastValid = s.lastValid := rfl
@[simp] theorem setDup_lastId (v : Bool) : (setDup v s).lastId = s.lastId := rfl
@[simp] theorem setDup_peerKnown (v : Bool) : (setDup v s).peerKnown = s.peerKnown := rfl
@[simp] theorem setDup_peerId (v : Bool) : (setDup v s).peerId = s.peerId := rfl
@[simp] theorem setDup_pend (v : Bool) : (setDup v s).pend = s.pend := rfl
@[simp] theorem setDup_lastHello (v : Bool) : (setDup v s).lastHello = s.lastHello := rfl
@[simp] theorem setDup_drv (v : Bool) : (setDup v s).drv = s.drv := rfl
@[simp] theorem setDup_tmp (v : Bool) : (setDup v s).tmp = { s.tmp with dup := v } := rfl
@[simp] theorem setDup_seq (v : Bool) : (setDup v s).seq = s.seq := rfl
@[simp] theorem setDup_feed (v : Bool) : (setDup v s).feed = s.feed := rfl
@[simp] theorem setDup_micros (v : Bool) : (setDup v s).micros = s.micros := rfl
@[simp] theorem setDup_millis (v : Bool) : (setDup v s).millis = s.millis := rfl
@[simp] theorem setDup_env (v : Bool) : (setDup v s).env = s.env := rfl
@[simp] theorem setDup_freeCtr (v : Bool) : (setDup v s).freeCtr = s.freeCtr := rfl
@[simp] theorem setDup_chanIn (v : Bool) : (setDup v s).chanIn = s.chanIn := rfl
@[simp] theorem setDup_port (v : Bool) : (setDup v s).port = s.port := rfl
@[simp] theorem setDup_responses (v : Bool) : (setDup v s).responses = s.responses := rfl
@[simp] theorem setDup_events (v : Bool) : (setDup v s).events = s.events := rfl
@[simp] theorem setDup_txCells (v : Bool) : (setDup v s).txCells = s.txCells := rfl
@[simp] theorem setDup_txBytes (v : Bool) : (setDup v s).txBytes = s.txBytes := rfl

/-! ### releaseSlot -/
@[simp] theorem releaseSlot_straps : (releaseSlot s).straps = s.straps := rfl
@[simp] theorem releaseSlot_bitp : (releaseSlot s).bitp = s.bitp := rfl
@[simp] theorem releaseSlot_ackTo : (releaseSlot s).ackTo = s.ackTo := rfl
@[simp] theorem releaseSlot_maxRetry : (releaseSlot s).maxRetry = s.maxRetry := rfl
@[simp] theorem releaseSlot_helloInt : (releaseSlot s).helloInt = s.helloInt := rfl
@[simp] theorem releaseSlot_handlerEn : (releaseSlot s).handlerEn = s.handlerEn := rfl
@[simp] theorem releaseSlot_rxState : (releaseSlot s).rxState = s.rxState := rfl
@[simp] theorem releaseSlot_rxLen : (releaseSlot s).rxLen = s.rxLen := rfl
@[simp] theorem releaseSlot_rxIdx : (releaseSlot s).rxIdx = s.rxIdx := rfl
@[simp] theorem releaseSlot_rxBuf : (releaseSlot s).rxBuf = s.rxBuf := rfl
@[simp] theorem releaseSlot_nextId : (releaseSlot s).nextId = s.nextId := rfl
@[simp] theorem releaseSlot_lastValid : (releaseSlot s).lastValid = s.lastValid := rfl
@[simp] theorem releaseSlot_lastId : (releaseSlot s).lastId = s.lastId := rfl
@[simp] theorem releaseSlot_peerKnown : (releaseSlot s).peerKnown = s.peerKnown := rfl
@[simp] theorem releaseSlot_peerId : (releaseSlot s).peerId = s.peerId := rfl
@[simp] theorem releaseSlot_pend : (releaseSlot s).pend = { s.pend with active := false } := rfl
@[simp] theorem releaseSlot_lastHello : (releaseSlot s).lastHello = s.lastHello := rfl
@[simp] theorem releaseSlot_drv : (releaseSlot s).drv = s.drv := rfl
@[simp] theorem releaseSlot_tmp : (releaseSlot s).tmp = s.tmp := rfl
@[simp] theorem releaseSlot_seq : (releaseSlot s).seq = s.seq := rfl
@[simp] theorem releaseSlot_feed : (releaseSlot s).feed = s.feed := rfl
@[simp] theorem releaseSlot_micros : (releaseSlot s).micros = s.micros := rfl
@[simp] theorem releaseSlot_millis : (releaseSlot s).millis = s.millis := rfl
@[simp] theorem releaseSlot_env : (releaseSlot s).env = s.env := rfl
@[simp] theorem releaseSlot_freeCtr : (releaseSlot s).freeCtr = s.freeCtr := rfl
@[simp] theorem releaseSlot_chanIn : (releaseSlot s).chanIn = s.chanIn := rfl
@[simp] theorem releaseSlot_port : (releaseSlot s).port = s.port := rfl
@[simp] theorem releaseSlot_responses : (releaseSlot s).responses = s.responses := rfl
@[simp] theorem releaseSlot_events : (releaseSlot s).events = s.events := rfl
@[simp] theorem releaseSlot_txCells : (releaseSlot s).txCells = s.txCells := rfl
@[simp] theorem releaseSlot_txBytes : (releaseSlot s).txBytes = s.txBytes := rfl

/-! ### acceptId -/
@[simp] theorem acceptId_straps (i : Byte) : (acceptId i s).straps = s.straps := rfl
@[simp] theorem acceptId_bitp (i : Byte) : (acceptId i s).bitp = s.bitp := rfl
@[simp] theorem acceptId_ackTo (i : Byte) : (acceptId i s).ackTo = s.ackTo := rfl
@[simp] theorem acceptId_maxRetry (i : Byte) : (acceptId i s).maxRetry = s.maxRetry := rfl
@[simp] theorem acceptId_helloInt (i : Byte) : (acceptId i s).helloInt = s.helloInt := rfl
@[simp] theorem acceptId_handlerEn (i : Byte) : (acceptId i s).handlerEn = s.handlerEn := rfl
@[simp] theorem acceptId_rxState (i : Byte) : (acceptId i s).rxState = s.rxState := rfl
@[simp] theorem acceptId_rxLen (i : Byte) : (acceptId i s).rxLen = s.rxLen := rfl
@[simp] theorem acceptId_rxIdx (i : Byte) : (acceptId i s).rxIdx = s.rxIdx := rfl
@[simp] theorem acceptId_rxBuf (i : Byte) : (acceptId i s).rxBuf = s.rxBuf := rfl
@[simp] theorem acceptId_nextId (i : Byte) : (acceptId i s).nextId = s.nextId := rfl
@[simp] theorem acceptId_lastValid (i : Byte) : (acceptId i s).lastValid = true := rfl
@[simp] theorem acceptId_lastId (i : Byte) : (acceptId i s).lastId = i := rfl
@[simp] theorem acceptId_peerKnown (i : Byte) : (acceptId i s).peerKnown = s.peerKnown := rfl
@[simp] theorem acceptId_peerId (i : Byte) : (acceptId i s).peerId = s.peerId := rfl
@[simp] theorem acceptId_pend (i : Byte) : (acceptId i s).pend = s.pend := rfl
@[simp] theorem acceptId_lastHello (i : Byte) : (acceptId i s).lastHello = s.lastHello := rfl
@[simp] theorem acceptId_drv (i : Byte) : (acceptId i s).drv = s.drv := rfl
@[simp] theorem acceptId_tmp (i : Byte) : (acceptId i s).tmp = s.tmp := rfl
@[simp] theorem acceptId_seq (i : Byte) : (acceptId i s).seq = s.seq := rfl
@[simp] theorem acceptId_feed (i : Byte) : (acceptId i s).feed = s.feed := rfl
@[simp] theorem acceptId_micros (i : Byte) : (acceptId i s).micros = s.micros := rfl
@[simp] theorem acceptId_millis (i : Byte) : (acceptId i s).millis = s.millis := rfl
@[simp] theorem acceptId_env (i : Byte) : (acceptId i s).env = s.env := rfl
@[simp] theorem acceptId_freeCtr (i : Byte) : (acceptId i s).freeCtr = s.freeCtr := rfl
@[simp] theorem acceptId_chanIn (i : Byte) : (acceptId i s).chanIn = s.chanIn := rfl
@[simp] theorem acceptId_port (i : Byte) : (acceptId i s).port = s.port := rfl
@[simp] theorem acceptId_responses (i : Byte) : (acceptId i s).responses = s.responses := rfl
@[simp] theorem acceptId_events (i : Byte) : (acceptId i s).events = s.events := rfl
@[simp] theorem acceptId_txCells (i : Byte) : (acceptId i s).txCells = s.txCells := rfl
@[simp] theorem acceptId_txBytes (i : Byte) : (acceptId i s).txBytes = s.txBytes := rfl

/-! ### recordPeer -/
@[simp] theorem recordPeer_straps (v : Byte) : (recordPeer v s).straps = s.straps := rfl
@[simp] theorem recordPeer_bitp (v : Byte) : (recordPeer v s).bitp = s.bitp := rfl
@[simp] theorem recordPeer_ackTo (v : Byte) : (recordPeer v s).ackTo = s.ackTo := rfl
@[simp] theorem recordPeer_maxRetry (v : Byte) : (recordPeer v s).maxRetry = s.maxRetry := rfl
@[simp] theorem recordPeer_helloInt (v : Byte) : (recordPeer v s).helloInt = s.helloInt := rfl
@[simp] theorem recordPeer_handlerEn (v : Byte) : (recordPeer v s).handlerEn = s.handlerEn := rfl
@[simp] theorem recordPeer_rxState (v : Byte) : (recordPeer v s).rxState = s.rxState := rfl
@[simp] theorem recordPeer_rxLen (v : Byte) : (recordPeer v s).rxLen = s.rxLen := rfl
@[simp] theorem recordPeer_rxIdx (v : Byte) : (recordPeer v s).rxIdx = s.rxIdx := rfl
@[simp] theorem recordPeer_rxBuf (v : Byte) : (recordPeer v s).rxBuf = s.rxBuf := rfl
@[simp] theorem recordPeer_nextId (v : Byte) : (recordPeer v s).nextId = s.nextId := rfl
@[simp] theorem recordPeer_lastValid (v : Byte) : (recordPeer v s).lastValid = s.lastValid := rfl
@[simp] theorem recordPeer_lastId (v : Byte) : (recordPeer v s).lastId = s.lastId := rfl
@[simp] theorem recordPeer_peerKnown (v : Byte) : (recordPeer v s).peerKnown = true := rfl
@[simp] theorem recordPeer_peerId (v : Byte) : (recordPeer v s).peerId = v := rfl
@[simp] theorem recordPeer_pend (v : Byte) : (recordPeer v s).pend = s.pend := rfl
@[simp] theorem recordPeer_lastHello (v : Byte) : (recordPeer v s).lastHello = s.lastHello := rfl
@[simp] theorem recordPeer_drv (v : Byte) : (recordPeer v s).drv = s.drv := rfl
@[simp] theorem recordPeer_tmp (v : Byte) : (recordPeer v s).tmp = s.tmp := rfl
@[simp] theorem recordPeer_seq (v : Byte) : (recordPeer v s).seq = s.seq := rfl
@[simp] theorem recordPeer_feed (v : Byte) : (recordPeer v s).feed = s.feed := rfl
@[simp] theorem recordPeer_micros (v : Byte) : (recordPeer v s).micros = s.micros := rfl
@[simp] theorem recordPeer_millis (v : Byte) : (recordPeer v s).millis = s.millis := rfl
@[simp] theorem recordPeer_env (v : Byte) : (recordPeer v s).env = s.env := rfl
@[simp] theorem recordPeer_freeCtr (v : Byte) : (recordPeer v s).freeCtr = s.freeCtr := rfl
@[simp] theorem recordPeer_chanIn (v : Byte) : (recordPeer v s).chanIn = s.chanIn := rfl
@[simp] theorem recordPeer_port (v : Byte) : (recordPeer v s).port = s.port := rfl
@[simp] theorem recordPeer_responses (v : Byte) : (recordPeer v s).responses = s.responses := rfl
@[simp] theorem recordPeer_events (v : Byte) : (recordPeer v s).events = s.events := rfl
@[simp] theorem recordPeer_txCells (v : Byte) : (recordPeer v s).txCells = s.txCells := rfl
@[simp] theorem recordPeer_txBytes (v : Byte) : (recordPeer v s).txBytes = s.txBytes := rfl

/-! ### enableHandler -/
@[simp] theorem enableHandler_straps : (enableHandler s).straps = s.straps := rfl
@[simp] theorem enableHandler_bitp : (enableHandler s).bitp = s.bitp := rfl
@[simp] theorem enableHandler_ackTo : (enableHandler s).ackTo = s.ackTo := rfl
@[simp] theorem enableHandler_maxRetry : (enableHandler s).maxRetry = s.maxRetry := rfl
@[simp] theorem enableHandler_helloInt : (enableHandler s).helloInt = s.helloInt := rfl
@[simp] theorem enableHandler_handlerEn : (enableHandler s).handlerEn = true := rfl
@[simp] theorem enableHandler_rxState : (enableHandler s).rxState = s.rxState := rfl
@[simp] theorem enableHandler_rxLen : (enableHandler s).rxLen = s.rxLen := rfl
@[simp] theorem enableHandler_rxIdx : (enableHandler s).rxIdx = s.rxIdx := rfl
@[simp] theorem enableHandler_rxBuf : (enableHandler s).rxBuf = s.rxBuf := rfl
@[simp] theorem enableHandler_nextId : (enableHandler s).nextId = s.nextId := rfl
@[simp] theorem enableHandler_lastValid : (enableHandler s).lastValid = s.lastValid := rfl
@[simp] theorem enableHandler_lastId : (enableHandler s).lastId = s.lastId := rfl
@[simp] theorem enableHandler_peerKnown : (enableHandler s).peerKnown = s.peerKnown := rfl
@[simp] theorem enableHandler_peerId : (enableHandler s).peerId = s.peerId := rfl
@[simp] theorem enableHandler_pend : (enableHandler s).pend = s.pend := rfl
@[simp] theorem enableHandler_lastHello : (enableHandler s).lastHello = s.lastHello := rfl
@[simp] theorem enableHandler_drv : (enableHandler s).drv = s.drv := rfl
@[simp] theorem enableHandler_tmp : (enableHandler s).tmp = s.tmp := rfl
@[simp] theorem enableHandler_seq : (enableHandler s).seq = s.seq := rfl
@[simp] theorem enableHandler_feed : (enableHandler s).feed = s.feed := rfl
@[simp] theorem enableHandler_micros : (enableHandler s).micros = s.micros := rfl
@[simp] theorem enableHandler_millis : (enableHandler s).millis = s.millis := rfl
@[simp] theorem enableHandler_env : (enableHandler s).env = s.env := rfl
@[simp] theorem enableHandler_freeCtr : (enableHandler s).freeCtr = s.freeCtr := rfl
@[simp] theorem enableHandler_chanIn : (enableHandler s).chanIn = s.chanIn := rfl
@[simp] theorem enableHandler_port : (enableHandler s).port = s.port := rfl
@[simp] theorem enableHandler_responses : (enableHandler s).responses = s.responses := rfl
@[simp] theorem enableHandler_events : (enableHandler s).events = s.events := rfl
@[simp] theorem enableHandler_txCells : (enableHandler s).txCells = s.txCells := rfl
@[simp] theorem enableHandler_txBytes : (enableHandler s).txBytes = s.txBytes := rfl

/-! ### resetReassembly -/
@[simp] theorem resetReassembly_straps : (resetReassembly s).straps = s.straps := rfl
@[simp] theorem resetReassembly_bitp : (resetReassembly s).bitp = s.bitp := rfl
@[simp] theorem resetReassembly_ackTo : (resetReassembly s).ackTo = s.ackTo := rfl
@[simp] theorem resetReassembly_maxRetry : (resetReassembly s).maxRetry = s.maxRetry := rfl
@[simp] theorem resetReassembly_helloInt : (resetReassembly s).helloInt = s.helloInt := rfl
@[simp] theorem resetReassembly_handlerEn : (resetReassembly s).handlerEn = s.handlerEn := rfl
@[simp] theorem resetReassembly_rxState : (resetReassembly s).rxState = .awaitingStart := rfl
@[simp] theorem resetReassembly_rxLen : (resetReassembly s).rxLen = s.rxLen := rfl
@[simp] theorem resetReassembly_rxIdx : (resetReassembly s).rxIdx = 0 := rfl
@[simp] theorem resetReassembly_rxBuf : (resetReassembly s).rxBuf = s.rxBuf := rfl
@[simp] theorem resetReassembly_nextId : (resetReassembly s).nextId = s.nextId := rfl
@[simp] theorem resetReassembly_lastValid : (resetReassembly s).lastValid = s.lastValid := rfl
@[simp] theorem resetReassembly_lastId : (resetReassembly s).lastId = s.lastId := rfl
@[simp] theorem resetReassembly_peerKnown : (resetReassembly s).peerKnown = s.peerKnown := rfl
@[simp] theorem resetReassembly_peerId : (resetReassembly s).peerId = s.peerId := rfl
@[simp] theorem resetReassembly_pend : (resetReassembly s).pend = s.pend := rfl
@[simp] theorem resetReassembly_lastHello : (resetReassembly s).lastHello = s.lastHello := rfl
@[simp] theorem resetReassembly_drv : (resetReassembly s).drv = s.drv := rfl
@[simp] theorem resetReassembly_tmp : (resetReassembly s).tmp = s.tmp := rfl
@[simp] theorem resetReassembly_seq : (resetReassembly s).seq = s.seq := rfl
@[simp] theorem resetReassembly_feed : (resetReassembly s).feed = s.feed := rfl
@[simp] theorem resetReassembly_micros : (resetReassembly s).micros = s.micros := rfl
@[simp] theorem resetReassembly_millis : (resetReassembly s).millis = s.millis := rfl
@[simp] theorem resetReassembly_env : (resetReassembly s).env = s.env := rfl
@[simp] theorem resetReassembly_freeCtr : (resetReassembly s).freeCtr = s.freeCtr := rfl
@[simp] theorem resetReassembly_chanIn : (resetReassembly s).chanIn = s.chanIn := rfl
@[simp] theorem resetReassembly_port : (resetReassembly s).port = s.port := rfl
@[simp] theorem resetReassembly_responses : (resetReassembly s).responses = s.responses := rfl
@[simp] theorem resetReassembly_events : (resetReassembly s).events = s.events := rfl
@[simp] theorem resetReassembly_txCells : (resetReassembly s).txCells = s.txCells := rfl
@[simp] theorem resetReassembly_txBytes : (resetReassembly s).txBytes = s.txBytes := rfl

/-! ### setBitp -/
@[simp] theorem setBitp_straps (p : Nat) : (setBitp p s).straps = s.straps := rfl
@[simp] theorem setBitp_bitp (p : Nat) : (setBitp p s).bitp = clampBitp p := rfl
@[simp] theorem setBitp_ackTo (p : Nat) : (setBitp p s).ackTo = s.ackTo := rfl
@[simp] theorem setBitp_maxRetry (p : Nat) : (setBitp p s).maxRetry = s.maxRetry := rfl
@[simp] theorem setBitp_helloInt (p : Nat) : (setBitp p s).helloInt = s.helloInt := rfl
@[simp] theorem setBitp_handlerEn (p : Nat) : (setBitp p s).handlerEn = s.handlerEn := rfl
@[simp] theorem setBitp_rxState (p : Nat) : (setBitp p s).rxState = s.rxState := rfl
@[simp] theorem setBitp_rxLen (p : Nat) : (setBitp p s).rxLen = s.rxLen := rfl
@[simp] theorem setBitp_rxIdx (p : Nat) : (setBitp p s).rxIdx = s.rxIdx := rfl
@[simp] theorem setBitp_rxBuf (p : Nat) : (setBitp p s).rxBuf = s.rxBuf := rfl
@[simp] theorem setBitp_nextId (p : Nat) : (setBitp p s).nextId = s.nextId := rfl
@[simp] theorem setBitp_lastValid (p : Nat) : (setBitp p s).lastValid = s.lastValid := rfl
@[simp] theorem setBitp_lastId (p : Nat) : (setBitp p s).lastId = s.lastId := rfl
@[simp] theorem setBitp_peerKnown (p : Nat) : (setBitp p s).peerKnown = s.peerKnown := rfl
@[simp] theorem setBitp_peerId (p : Nat) : (setBitp p s).peerId = s.peerId := rfl
@[simp] theorem setBitp_pend (p : Nat) : (setBitp p s).pend = s.pend := rfl
@[simp] theorem setBitp_lastHello (p : Nat) : (setBitp p s).lastHello = s.lastHello := rfl
@[simp] theorem setBitp_drv (p : Nat) : (setBitp p s).drv = s.drv := rfl
@[simp] theorem setBitp_tmp (p : Nat) : (setBitp p s).tmp = s.tmp := rfl
@[simp] theorem setBitp_seq (p : Nat) : (setBitp p s).seq = s.seq := rfl
@[simp] theorem setBitp_feed (p : Nat) : (setBitp p s).feed = s.feed := rfl
@[simp] theorem setBitp_micros (p : Nat) : (setBitp p s).micros = s.micros := rfl
@[simp] theorem setBitp_millis (p : Nat) : (setBitp p s).millis = s.millis := rfl
@[simp] theorem setBitp_env (p : Nat) : (setBitp p s).env = s.env := rfl
@[simp] theorem setBitp_freeCtr (p : Nat) : (setBitp p s).freeCtr = s.freeCtr := rfl
@[simp] theorem setBitp_chanIn (p : Nat) : (setBitp p s).chanIn = s.chanIn := rfl
@[simp] theorem setBitp_port (p : Nat) : (setBitp p s).port = s.port := rfl
@[simp] theorem setBitp_responses (p : Nat) : (setBitp p s).responses = s.responses := rfl
@[simp] theorem setBitp_events (p : Nat) : (setBitp p s).events = s.events := rfl
@[simp] theorem setBitp_txCells (p : Nat) : (setBitp p s).txCells = s.txCells := rfl
@[simp] theorem setBitp_txBytes (p : Nat) : (setBitp p s).txBytes = s.txBytes := rfl

/-! ### newId -/
@[simp] theorem newId_straps : (newId s).straps = s.straps := rfl
@[simp] theorem newId_bitp : (newId s).bitp = s.bitp := rfl
@[simp] theorem newId_ackTo : (newId s).ackTo = s.ackTo := rfl
@[simp] theorem newId_maxRetry : (newId s).maxRetry = s.maxRetry := rfl
@[simp] theorem newId_helloInt : (newId s).helloInt = s.helloInt := rfl
@[simp] theorem newId_handlerEn : (newId s).handlerEn = s.handlerEn := rfl
@[simp] theorem newId_rxState : (newId s).rxState = s.rxState := rfl
@[simp] theorem newId_rxLen : (newId s).rxLen = s.rxLen := rfl
@[simp] theorem newId_rxIdx : (newId s).rxIdx = s.rxIdx := rfl
@[simp] theorem newId_rxBuf : (newId s).rxBuf = s.rxBuf := rfl
@[simp] theorem newId_nextId : (newId s).nextId = bumpId s.straps.idSkipZero s.nextId := rfl
@[simp] theorem newId_lastValid : (newId s).lastValid = s.lastValid := rfl
@[simp] theorem newId_lastId : (newId s).lastId = s.lastId := rfl
@[simp] theorem newId_peerKnown : (newId s).peerKnown = s.peerKnown := rfl
@[simp] theorem newId_peerId : (newId s).peerId = s.peerId := rfl
@[simp] theorem newId_pend : (newId s).pend = s.pend := rfl
@[simp] theorem newId_lastHello : (newId s).lastHello = s.lastHello := rfl
@[simp] theorem newId_drv : (newId s).drv = s.drv := rfl
@[simp] theorem newId_tmp : (newId s).tmp = s.tmp := rfl
@[simp] theorem newId_seq : (newId s).seq = s.seq := rfl
@[simp] theorem newId_feed : (newId s).feed = s.feed := rfl
@[simp] theorem newId_micros : (newId s).micros = s.micros := rfl
@[simp] theorem newId_millis : (newId s).millis = s.millis := rfl
@[simp] theorem newId_env : (newId s).env = s.env := rfl
@[simp] theorem newId_freeCtr : (newId s).freeCtr = s.freeCtr := rfl
@[simp] theorem newId_chanIn : (newId s).chanIn = s.chanIn := rfl
@[simp] theorem newId_port : (newId s).port = s.port := rfl
@[simp] theorem newId_responses : (newId s).responses = s.responses := rfl
@[simp] theorem newId_events : (newId s).events = s.events := rfl
@[simp] theorem newId_txCells : (newId s).txCells = s.txCells := rfl
@[simp] theorem newId_txBytes : (newId s).txBytes = s.txBytes := rfl

end Sys2Proof.Machine
end

