-- ==== Sys2Proof/Laws/Engine.lean ====
section
/-! SUPPORT. What the shared operations can do, said once: where the engine's procedures leave the block, and that no
primitive step of a command touches the configuration, turns a clock back, clears a flag or takes back an output. -/
namespace Sys2Proof.Machine

/-! ### Positions -/

@[simp] theorem isIdle_iff (p : Pos) : p.isIdle = true ↔ p = .idle := by cases p <;> simp [Pos.isIdle]

@[simp] theorem ready_iff (s : State) : ready s = true ↔ s.seq = .idle := isIdle_iff s.seq

@[simp] theorem readMillis_goTo (p : Pos) (s : State) : readMillis (goTo p s) = readMillis s := rfl

/-- Where the HELLO check leaves a POLL. -/
theorem helloTick_eq (s : State) : helloTick s = goTo (if s.helloInt = 0 then .idle else .helloNow) s := by
  unfold helloTick; split <;> rfl

/-- Where the retry tick leaves a POLL. -/
theorem retryTick_eq (s : State) :
    retryTick s =
      goTo (if pendWaits s then .retryNow else if s.helloInt = 0 then .idle else .helloNow) s := by
  unfold retryTick; rw [helloTick_eq]; split <;> rfl

/-! ### Sequencing -/

@[simp] theorem andThen_next (s : State) (f : State → Out) : andThen (.next s) f = f s := rfl

theorem andThen_eq_next {o : Out} {f : State → Out} {t : State} (h : andThen o f = .next t) :
    ∃ u, o = .next u ∧ f u = .next t := by
  cases o with
  | next u => exact ⟨u, rfl, h⟩
  | fault r => cases r
  | refused r => simp [andThen] at h

theorem andThen_assoc (o : Out) (f g : State → Out) :
    andThen (andThen o f) g = andThen o fun s => andThen (f s) g := by
  cases o <;> rfl

@[simp] theorem run_nil (s : State) : run [] s = .next { s with env := [] } := rfl

theorem run_idle (d : Draw) (rest : List Draw) (s : State) (h : s.seq = .idle) :
    run (d :: rest) s = .next { s with env := d :: rest } := by simp [run, h]

theorem run_busy (d : Draw) (rest : List Draw) (s : State) (h : s.seq ≠ .idle) :
    run (d :: rest) s = andThen (advance d s) (run rest) := by
  simp only [run]; rw [if_neg]; simpa using h

/-- An idle block leaves the draws where they are. -/
theorem run_of_idle (ds : List Draw) (s : State) (h : s.seq = .idle) : run ds s = .next { s with env := ds } := by
  cases ds with
  | nil => rfl
  | cons d rest => exact run_idle d rest s h

@[simp] theorem receiveAll_nil (s : State) : receiveAll [] s = .next { s with feed := [] } := rfl

theorem receiveAll_cons (b : Byte) (rest : List Byte) (s : State) :
    receiveAll (b :: rest) s =
      andThen (received b { s with feed := rest }) fun t =>
        if t.seq.isIdle then receiveAll rest t else .next t := rfl

/-! ### What no primitive step does -/

/-- What every part of a command respects: construction parameters, configuration and waiting commands stay; clocks do not
go back; `PEERKNOWN` and `LASTVALID` are not cleared; outputs are only added to. -/
structure Grows (s t : State) : Prop where
  straps    : t.straps = s.straps
  bitp      : t.bitp = s.bitp
  ackTo     : t.ackTo = s.ackTo
  maxRetry  : t.maxRetry = s.maxRetry
  helloInt  : t.helloInt = s.helloInt
  handlerEn : t.handlerEn = s.handlerEn
  port      : t.port = s.port
  micros    : s.micros ≤ t.micros
  millis    : s.millis ≤ t.millis
  peerKnown : s.peerKnown = true → t.peerKnown = true
  lastValid : s.lastValid = true → t.lastValid = true
  txBytes   : s.txBytes <+: t.txBytes
  txCells   : s.txCells <+: t.txCells
  responses : s.responses <+: t.responses
  events    : s.events <+: t.events

namespace Grows

theorem refl (s : State) : Grows s s := by constructor <;> simp

theorem trans {s t u : State} (h : Grows s t) (k : Grows t u) : Grows s u where
  straps := k.straps.trans h.straps
  bitp := k.bitp.trans h.bitp
  ackTo := k.ackTo.trans h.ackTo
  maxRetry := k.maxRetry.trans h.maxRetry
  helloInt := k.helloInt.trans h.helloInt
  handlerEn := k.handlerEn.trans h.handlerEn
  port := k.port.trans h.port
  micros := h.micros.trans k.micros
  millis := h.millis.trans k.millis
  peerKnown := k.peerKnown ∘ h.peerKnown
  lastValid := k.lastValid ∘ h.lastValid
  txBytes := h.txBytes.trans k.txBytes
  txCells := h.txCells.trans k.txCells
  responses := h.responses.trans k.responses
  events := h.events.trans k.events

/-- `Millis()` does not go back either, coupled or not (R56). -/
theorem readMillis {s t : State} (h : Grows s t) : readMillis s ≤ readMillis t := by
  unfold Machine.readMillis
  rw [h.straps]
  split
  · exact Nat.div_le_div_right h.micros
  · exact h.millis

end Grows

variable {s t : State}

theorem grows_goTo (p : Pos) (s : State) : Grows s (goTo p s) := by constructor <;> simp
theorem grows_tick (d : Draw) (s : State) : Grows s (tick d s) := by constructor <;> simp
theorem grows_delay (n : Nat) (d : Draw) (s : State) : Grows s (delay n d s) := by
  constructor <;> simp; omega
theorem grows_drivePin (l : Bool) (s : State) : Grows s (drivePin l s) := by constructor <;> simp
theorem grows_storeBody (b : Byte) (s : State) : Grows s (storeBody b s) := by constructor <;> simp
theorem grows_respond (v : Response) (s : State) : Grows s (respond v s) := by constructor <;> simp
theorem grows_raiseEvent (e : Event) (s : State) : Grows s (raiseEvent e s) := by constructor <;> simp
theorem grows_setDup (v : Bool) (s : State) : Grows s (setDup v s) := by constructor <;> simp
theorem grows_releaseSlot (s : State) : Grows s (releaseSlot s) := by constructor <;> simp
theorem grows_acceptId (i : Byte) (s : State) : Grows s (acceptId i s) := by constructor <;> simp
theorem grows_recordPeer (v : Byte) (s : State) : Grows s (recordPeer v s) := by constructor <;> simp
theorem grows_resetReassembly (s : State) : Grows s (resetReassembly s) := by constructor <;> simp
theorem grows_newId (s : State) : Grows s (newId s) := by constructor <;> simp

theorem grows_txBytes (x : List Byte) (s : State) : Grows s { s with txBytes := s.txBytes ++ x } := by
  constructor <;> simp
theorem grows_tmp (x : Transient) (s : State) : Grows s { s with tmp := x } := by constructor <;> simp
theorem grows_pend (x : Pend) (s : State) : Grows s { s with pend := x } := by constructor <;> simp
theorem grows_captureFrame (p : List Byte) (n : Nat) (i : Byte) (s : State) : Grows s (captureFrame p n i s) :=
  grows_pend _ s
theorem grows_lastHello (x : Nat) (s : State) : Grows s { s with lastHello := x } := by constructor <;> simp
theorem grows_feed (x : List Byte) (s : State) : Grows s { s with feed := x } := by constructor <;> simp
theorem grows_env (x : List Draw) (s : State) : Grows s { s with env := x } := by constructor <;> simp
theorem grows_freeCtr (x : Nat) (s : State) : Grows s { s with freeCtr := x } := by constructor <;> simp
theorem grows_chanIn (x : List Byte) (s : State) : Grows s { s with chanIn := x } := by constructor <;> simp
theorem grows_rx (a : RxState) (l : Byte) (i : Nat) (s : State) :
    Grows s { s with rxState := a, rxLen := l, rxIdx := i } := by constructor <;> simp

theorem grows_helloTick (s : State) : Grows s (helloTick s) := by
  rw [helloTick_eq]; exact grows_goTo _ s

theorem grows_retryTick (s : State) : Grows s (retryTick s) := by
  rw [retryTick_eq]; exact grows_goTo _ s

theorem grows_endProcess (s : State) : Grows s (endProcess s) :=
  (grows_resetReassembly s).trans (grows_retryTick _)

theorem grows_deliver (s : State) : Grows s (deliver s) := by
  unfold deliver
  split
  · exact .refl s
  split
  · exact grows_raiseEvent _ s
  · exact .refl s

theorem grows_frameSent (a : After) (s : State) : Grows s (frameSent a s) := by
  unfold frameSent
  split
  · split
    · exact (grows_captureFrame _ _ _ s).trans (grows_goTo _ _)
    · exact (grows_respond _ s).trans (grows_goTo _ _)
  · exact (grows_deliver s).trans (grows_endProcess _)
  · exact grows_goTo _ s
  · exact grows_goTo _ s

theorem grows_sendBytes (x : List Byte) (a : After) (s : State) : Grows s (sendBytes x a s) := by
  unfold sendBytes
  split
  · exact (grows_txBytes _ s).trans (grows_frameSent a _)
  · exact grows_goTo _ s
  · exact grows_frameSent a s

theorem grows_txFrame (ty i : Byte) (p : List Byte) (n : Nat) (a : After) (s : State) :
    Grows s (txFrame ty i p n a s) := grows_sendBytes _ a s

theorem grows_sendHello (s : State) : Grows s (sendHello s) :=
  (grows_newId s).trans (grows_txFrame _ _ _ _ _ _)

theorem grows_capturePeer (s : State) : Grows s (capturePeer s) := by
  unfold capturePeer; split
  · exact grows_recordPeer _ s
  · exact .refl s

theorem grows_matchAck (s : State) : Grows s (matchAck s) := by
  unfold matchAck; split
  · exact grows_releaseSlot s
  · exact .refl s

theorem grows_filterDuplicate (s : State) : Grows s (filterDuplicate s) := by
  unfold filterDuplicate
  split
  · split
    · exact grows_setDup _ s
    · exact (grows_setDup _ s).trans (grows_acceptId _ _)
  · exact grows_setDup _ s

theorem grows_process (h : process s = .next t) : Grows s t := by
  unfold process at h
  split at h
  · cases h; exact grows_endProcess s
  split at h
  · cases h
  have hf : Grows s (filterDuplicate (matchAck (capturePeer s))) :=
    ((grows_capturePeer s).trans (grows_matchAck _)).trans (grows_filterDuplicate _)
  dsimp only at h
  split at h
  · cases h; exact (hf.trans (grows_deliver _)).trans (grows_endProcess _)
  · cases h; exact hf.trans (grows_txFrame _ _ _ _ _ _)

theorem grows_received {b : Byte} (h : received b s = .next t) : Grows s t := by
  unfold received at h
  split at h
  · cases h
    refine Grows.trans ?_ (grows_retryTick _)
    unfold stepStart; split
    · exact grows_rx _ s.rxLen s.rxIdx s
    · exact .refl s
  · cases h
    refine Grows.trans ?_ (grows_retryTick _)
    unfold stepLength; split
    · exact grows_rx _ _ _ s
    · exact grows_rx _ s.rxLen _ s
  · unfold stepBody at h
    dsimp only at h
    split at h
    · exact (grows_storeBody b s).trans (grows_process h)
    · cases h; exact (grows_storeBody b s).trans (grows_retryTick _)

theorem grows_rxBudget (p : Pos) (d : Draw) (s : State) : Grows s (rxBudget p d s) := by
  unfold rxBudget
  refine (grows_tick d s).trans ?_
  dsimp only
  split
  · exact grows_retryTick _
  · exact grows_goTo _ _

theorem grows_toCell (c : List Bool) (tx : Tx) (s : State) : Grows s (toCell c tx s) := by
  unfold toCell; split
  · exact grows_goTo _ s
  · exact grows_frameSent _ s

theorem grows_byteSent (tx : Tx) (s : State) : Grows s (byteSent tx s) := by
  unfold byteSent
  refine (grows_txBytes [tx.byte] s).trans ?_
  dsimp only
  split
  · exact grows_goTo _ _
  · exact grows_frameSent _ _

theorem grows_retryDue (s : State) : Grows s (retryDue s) := by
  unfold retryDue
  split
  · split
    · exact (grows_pend _ s).trans (grows_txFrame _ _ _ _ _ _)
    · exact (grows_releaseSlot s).trans (grows_helloTick _)
  · exact grows_helloTick s

theorem grows_helloDue (s : State) : Grows s (helloDue s) := by
  unfold helloDue; split
  · exact grows_sendHello s
  · exact grows_goTo _ s

/-- One primitive step. -/
theorem grows_primitive {d : Draw} (h : primitive d s = .next t) : Grows s t := by
  have ht := grows_tick d s
  have two (p q : Pos) (c : Bool) : Grows s (if c then goTo p (tick d s) else goTo q (tick d s)) := by
    cases c
    · exact ht.trans (grows_goTo q _)
    · exact ht.trans (grows_goTo p _)
  unfold primitive at h
  split at h
  · cases h; exact .refl s
  · cases h; exact (ht.trans (grows_tmp _ _)).trans (grows_goTo _ _)
  · cases h; exact two _ _ _
  · cases h; exact (ht.trans (grows_tmp _ _)).trans (grows_goTo _ _)
  · cases h
    unfold idleCheck
    refine ht.trans ?_
    dsimp only
    split
    · exact grows_toCell _ _ _
    · exact grows_goTo _ _
  · cases h; exact (ht.trans (grows_drivePin _ _)).trans (grows_goTo _ _)
  · cases h
    unfold cellDelay
    refine (grows_delay s.bitp d s).trans ?_
    dsimp only
    split
    · exact grows_goTo _ _
    · exact grows_byteSent _ _
  · cases h; exact (ht.trans (grows_tmp _ _)).trans (grows_goTo _ _)
  · cases h; exact two _ _ _
  · cases h; exact grows_rxBudget _ d s
  · cases h; exact two _ _ _
  · cases h; exact grows_rxBudget _ d s
  · cases h; exact (ht.trans (grows_tmp _ _)).trans (grows_goTo _ _)
  · cases h; exact (grows_delay _ d s).trans (grows_goTo _ _)
  · cases h
    unfold rxRecheck
    refine ht.trans ?_
    dsimp only
    split
    · exact grows_goTo _ _
    · exact (grows_tmp _ _).trans (grows_goTo _ _)
  · cases h
    unfold rxTarget
    refine ht.trans ?_
    dsimp only
    split <;> exact grows_goTo _ _
  · cases h; exact grows_rxBudget _ d s
  · unfold rxSample at h
    dsimp only at h
    split at h
    · exact (ht.trans (grows_tmp _ _)).trans (grows_received h)
    · cases h; exact (ht.trans (grows_tmp _ _)).trans (grows_goTo _ _)
  · cases h
    exact ((ht.trans (grows_pend _ _)).trans (grows_respond _ _)).trans (grows_goTo _ _)
  · cases h; exact ht.trans (grows_retryDue _)
  · cases h; exact (ht.trans (grows_pend _ _)).trans (grows_helloTick _)
  · cases h; exact ht.trans (grows_helloDue _)
  · cases h; exact (ht.trans (grows_lastHello _ _)).trans (grows_goTo _ _)

/-! ### Packaging the induction over a run -/

/-- A relation that holds of every received byte, and does not see `feed`, holds of every received sequence. -/
theorem receiveAll_rel {R : State → State → Prop} (refl : ∀ s, R s s) (trans : ∀ s t u, R s t → R t u → R s u)
    (feed : ∀ s x, R s { s with feed := x }) (one : ∀ b s t, received b s = .next t → R s t) :
    ∀ (bytes : List Byte) (s t : State), receiveAll bytes s = .next t → R s t
  | [], s, t, h => by cases h; exact feed s []
  | b :: rest, s, t, h => by
    rw [receiveAll_cons] at h
    obtain ⟨u, hu, h⟩ := andThen_eq_next h
    have h1 := trans _ _ _ (feed s rest) (one b _ _ hu)
    split at h
    · exact trans _ _ _ h1 (receiveAll_rel refl trans feed one rest u t h)
    · cases h; exact h1

/-- A relation that holds of every primitive step and every received byte, and sees neither `feed` nor `env`, holds of
every run. -/
theorem run_rel {R : State → State → Prop} (refl : ∀ s, R s s) (trans : ∀ s t u, R s t → R t u → R s u)
    (feed : ∀ s x, R s { s with feed := x }) (env : ∀ s x, R s { s with env := x })
    (one : ∀ b s t, received b s = .next t → R s t) (prim : ∀ d s t, primitive d s = .next t → R s t) :
    ∀ (ds : List Draw) (s t : State), run ds s = .next t → R s t
  | [], s, t, h => by cases h; exact env s []
  | d :: rest, s, t, h => by
    simp only [run] at h
    split at h
    · cases h; exact env s _
    · obtain ⟨u, hu, h⟩ := andThen_eq_next h
      obtain ⟨v, hv, hu⟩ := andThen_eq_next hu
      refine trans _ _ _ (trans _ _ _ (prim d s v hv) ?_) (run_rel refl trans feed env one prim rest u t h)
      split at hu
      · exact receiveAll_rel refl trans feed one _ _ _ hu
      · cases hu; exact refl _

/-- A whole run, a received frame, a resumed command. -/
theorem grows_run {ds : List Draw} (h : run ds s = .next t) : Grows s t :=
  run_rel Grows.refl (fun _ _ _ => Grows.trans) (fun s x => grows_feed x s) (fun s x => grows_env x s)
    (fun _ _ _ => grows_received) (fun _ _ _ => grows_primitive) ds s t h

theorem grows_receiveAll {bytes : List Byte} (h : receiveAll bytes s = .next t) : Grows s t :=
  receiveAll_rel Grows.refl (fun _ _ _ => Grows.trans) (fun s x => grows_feed x s)
    (fun _ _ _ => grows_received) bytes s t h

theorem grows_resume (h : resume s = .next t) : Grows s t := by
  unfold resume at h
  split at h
  · exact (grows_freeCtr _ s).trans (grows_run h)
  · exact grows_run h

end Sys2Proof.Machine
end

