-- ==== Sys2Proof/Laws/Step.lean ====
section
/-! SUPPORT. What an instruction and what a step can do, said once (inversion), over `Grows` of Laws/Engine.lean. -/
namespace Sys2Proof.Machine

/-- The start cell of a byte follows its idle wait (R143). -/
theorem toCell_cellsOfByte (b : Byte) (tx : Tx) (s : State) :
    toCell (cellsOfByte b) tx s = goTo (.cellPin false (bitsOfByte b ++ [true]) tx) s := rfl

/-- A position other than `.idle` is a command in progress. -/
theorem not_ready_iff (s : State) : ready s = false ↔ s.seq ≠ .idle := by
  rw [← Bool.not_eq_true, ready_iff]

/-- A command that has begun and then runs. -/
theorem grows_begin {o : Out} {s t : State} (ho : ∀ u, o = .next u → Grows s u) (h : begin o = .next t) : Grows s t := by
  obtain ⟨u, hu, h⟩ := andThen_eq_next h
  exact (ho u hu).trans (grows_run h)

theorem grows_receiveFrame {x} {s t : State} (h : receiveFrame x s = .next t) : Grows s t :=
  grows_begin (fun _ hu => grows_receiveAll hu) h

theorem grows_poll {s t : State} (h : execPoll s = .next t) : Grows s t := by
  refine grows_begin (fun u hu => ?_) h
  unfold rxStart at hu
  split at hu
  · cases hu; exact grows_goTo _ s
  · exact (grows_chanIn _ s).trans (grows_received hu)
  · cases hu; exact grows_retryTick s

theorem grows_init {b} {s t : State} (h : execInit b s = .next t) : Grows s t := by
  unfold execInit at h
  split at h
  · exact grows_begin (fun u hu => by cases hu; exact grows_sendHello s) h
  · cases h; exact .refl s

theorem grows_send {p n a} {s t : State} (h : execSend p n a s = .next t) : Grows s t := by
  unfold execSend at h
  dsimp only at h
  split at h
  · cases h
  · exact grows_begin (fun u hu => by cases hu; exact (grows_newId s).trans (grows_txFrame _ _ _ _ _ _)) h

/-- What an instruction that answers a next state can have done: a command that respects `Grows`, or one of the five
configuration commands with its one write (R231 to R235). -/
theorem exec_cases {i : Instr} {s t : State} (h : exec i s = .next t) :
    Grows s t ∨
    (i = .sethandler ∧ t = { s with handlerEn := true }) ∨
    (∃ l q, i = .setq l ∧ qualityOfLevel l = some q ∧ t = { s with bitp := clampBitp (qualityBitp q), ackTo := ackToOf (clampBitp (qualityBitp q)) }) ∨
    (∃ n, t = { s with ackTo := n }) ∨ (∃ n, t = { s with maxRetry := n }) ∨ (∃ n, t = { s with helloInt := n }) := by
  cases i with
  | byte b => exact .inl (grows_receiveFrame h)
  | hello => exact .inl (grows_receiveFrame h)
  | data => exact .inl (grows_receiveFrame h)
  | ack => exact .inl (grows_receiveFrame h)
  | init => exact .inl (grows_init h)
  | poll => exact .inl (grows_poll h)
  | send => exact .inl (grows_send h)
  | sethandler => cases h; exact .inr (.inl ⟨rfl, rfl⟩)
  | setq l =>
    simp only [exec, execSetq] at h
    split at h
    · cases h
    · cases h; rename_i q hq; exact .inr (.inr (.inl ⟨l, q, rfl, hq, rfl⟩))
  | setackto n => cases h; exact .inr (.inr (.inr (.inl ⟨n, rfl⟩)))
  | setmaxretry n => cases h; exact .inr (.inr (.inr (.inr (.inl ⟨n, rfl⟩))))
  | sethelloint n => cases h; exact .inr (.inr (.inr (.inr (.inr ⟨n, rfl⟩))))
  | getid => cases h; exact .inl (grows_respond _ s)
  | getpeerid =>
    simp only [exec, execGetpeerid] at h
    split at h <;> cases h
    · exact .inl (grows_respond _ s)
    · exact .inl ((grows_freeCtr _ s).trans (grows_respond _ _))
  | getpeerknown => cases h; exact .inl (grows_respond _ s)

/-- An item the table does not name is received as bytes, or refused. -/
theorem receiveStray_cases {item : Item} {s t : State} (h : receiveStray item s = .next t) :
    ∃ bytes, receiveFrame bytes s = .next t := by
  cases item with
  | cmd w => cases h
  | frame bytes => exact ⟨bytes, h⟩
  | cells cells => exact ⟨bytesHeard cells, h⟩

/-- What a step that answers a next state can have been: nothing to do, one instruction accepted and executed, bytes
received that are no instruction, or the running command carried on (R50, R109). -/
theorem step_cases {s t : State} (h : step s = .next t) :
    (ready s = true ∧ s.port = [] ∧ t = s) ∨
    (∃ it rest i, ready s = true ∧ s.port = it :: rest ∧ decode it = .ok i ∧ exec i { s with port := rest } = .next t) ∨
    (∃ it rest why bytes, ready s = true ∧ s.port = it :: rest ∧ decode it = .error why ∧
      receiveFrame bytes { s with port := rest } = .next t) ∨
    (ready s = false ∧ resume s = .next t) := by
  unfold step at h
  split at h
  · rename_i hr
    split at h
    · rename_i hp; cases h; exact .inl ⟨hr, hp, rfl⟩
    · rename_i it rest hp
      split at h
      · rename_i i hd; exact .inr (.inl ⟨it, rest, i, hr, hp, hd, h⟩)
      · rename_i why hd
        obtain ⟨bytes, h⟩ := receiveStray_cases h
        exact .inr (.inr (.inl ⟨it, rest, why, bytes, hr, hp, hd, h⟩))
  · rename_i hr; exact .inr (.inr (.inr ⟨Bool.eq_false_iff.mpr hr, h⟩))

/-! ### What a receiver hears (R147, R149, R152) -/

theorem hear_watching_nil (b : Bool) : hear (.watching b) [] = [] := rfl

/-- Eight levels after a start edge are a byte, and watching goes on from the last of them. -/
theorem hear_byte (a b c d e f g h : Bool) (later : List Bool) :
    hear (.sampling []) (a :: b :: c :: d :: e :: f :: g :: h :: later) =
      byteOfBits [a, b, c, d, e, f, g, h] :: hear (.watching h) later := rfl

/-- The levels a byte's cells put on the wire are heard as that byte. -/
theorem byteOfBits_bitsOfByte (b : Byte) : byteOfBits (bitsOfByte b) = b := by
  revert b; decide

/-- The cells of R100 are heard as their byte: the decoder and the receiver agree. -/
theorem bytesHeard_cellsOfByte (b : Byte) : bytesHeard (cellsOfByte b) = [b] := by
  have h := byteOfBits_bitsOfByte b
  simp only [bitsOfByte, List.range, List.range.loop, List.map_cons, List.map_nil] at h
  unfold bytesHeard cellsOfByte
  simp only [bitsOfByte, List.range, List.range.loop, List.map_cons, List.map_nil, List.cons_append, List.nil_append]
  show hear (.sampling []) _ = _
  rw [hear_byte, h]
  simp [hear]

end Sys2Proof.Machine
end

