-- ==== Sys2Proof/Laws/Transmit.lean ====
section
/-! SUPPORT. Sending, said once: what a frame transmission on a free line leaves, at either level, and what the procedures that
send (SEND, PE.SENDHELLO, PE.RETRYTICK) do after their frame. -/
namespace Sys2Proof.Machine

/-- What follows a primitive step: when it completes a POLL and bytes of a received frame remain, the next POLL begins. -/
def settle (t : State) : Out := if t.seq.isIdle then receiveAll t.feed t else .next t

theorem run_settle {d ds s} (h : s.seq ≠ .idle) : run (d :: ds) s = andThen (andThen (primitive d s) settle) (run ds) := run_busy d ds s h

theorem settle_busy {t : State} (h : t.seq ≠ .idle) : settle t = .next t := by
  unfold settle; rw [if_neg]; simpa using h

theorem deliver_seq (p : Pos) (s : State) : deliver { s with seq := p } = { deliver s with seq := p } := by
  unfold deliver
  by_cases h1 : s.tmp.dup = true
  · rw [if_pos h1, if_pos h1]
  · rw [if_neg h1, if_neg h1]
    by_cases h2 : bodyType s ≠ Config.typeAck ∧ s.handlerEn = true
    · rw [if_pos h2, if_pos]; rfl
      exact h2
    · rw [if_neg h2, if_neg]
      exact h2

theorem endProcess_seq (p : Pos) (s : State) : endProcess { s with seq := p } = endProcess s := by
  unfold endProcess; rw [retryTick_eq, retryTick_eq]; rfl

/-- Where FC.TXFRAME returns from does not matter to its caller: the position is overwritten (R46). -/
theorem frameSent_seq (a : After) (p : Pos) (s : State) : frameSent a { s with seq := p } = frameSent a s := by
  cases a with
  | send x n i k =>
    simp only [frameSent]
    by_cases h : claimsSlot k s = true
    · rw [if_pos h, if_pos]; rfl
      exact h
    · rw [if_neg h, if_neg]; rfl
      exact h
  | autoAck => simp only [frameSent]; rw [deliver_seq, endProcess_seq]
  | retry => rfl
  | hello => rfl

theorem byteSent_seq (tx : Tx) (p : Pos) (s : State) : byteSent tx { s with seq := p } = byteSent tx s := by
  unfold byteSent; dsimp only; split
  · rfl
  · exact frameSent_seq _ p { s with txBytes := s.txBytes ++ [tx.byte] }

/-- The cells of BT.TXBYTE, each a pin action and a delay of `BITP` (R142, R143), up to what follows the byte. -/
theorem run_cells : ∀ (later : List Bool) (c : Bool) (tx : Tx) (ds more : List Draw) (s : State),
    s.seq = .cellPin c later tx → ds.length = 2 * (later.length + 1) →
    run (ds ++ more) s = andThen (settle (byteSent tx { s with
      drv := !((c :: later).getLast (by simp)), txCells := s.txCells ++ (c :: later)
      micros := s.micros + (ds.map Draw.us).sum + s.bitp * (later.length + 1)
      millis := s.millis + (ds.map Draw.ms).sum })) (run more) := by
  intro later
  induction later with
  | nil =>
    intro c tx ds more s hs hl
    match ds, hl with
    | [d0, d1], _ =>
    obtain ⟨st⟩ := s
    subst hs
    simp only [List.cons_append, List.nil_append]
    rw [run_settle (by simp)]
    simp only [primitive, cellPin, andThen_next]
    rw [settle_busy (by simp)]
    simp only [andThen_next]
    rw [run_settle (by simp)]
    simp only [primitive, goTo, drivePin, cellDelay, andThen_next, delay, tick]
    rw [← byteSent_seq tx (.cellPin c [] tx)]
    simp [Nat.add_comm, Nat.add_left_comm]
  | cons x later ih =>
    intro c tx ds more s hs hl
    match ds, hl with
    | d0 :: d1 :: ds, hl =>
    obtain ⟨st⟩ := s
    subst hs
    simp only [List.cons_append]
    rw [run_settle (by simp)]
    simp only [primitive, cellPin, andThen_next]
    rw [settle_busy (by simp)]
    simp only [andThen_next]
    rw [run_settle (by simp)]
    simp only [primitive, goTo, drivePin, cellDelay, andThen_next, delay, tick]
    rw [settle_busy (by simp)]
    simp only [andThen_next]
    rw [ih x tx ds more _ rfl (by simpa [Nat.mul_add] using hl)]
    congr 2
    rw [← byteSent_seq tx (.cellPin c (x :: later) tx)]
    congr 1
    simp [Nat.add_assoc, Nat.add_comm, Nat.add_left_comm]
    ring_nf

theorem idleCheck_ready (tx : Tx) (d : Draw) (s : State) (h : idleOf s.bitp ≤ s.micros + d.us - s.tmp.hs) :
    idleCheck tx d s = goTo (.cellPin false (bitsOfByte tx.byte ++ [true]) tx) (tick d s) := if_pos h

theorem lineFree_cons {i d ds} (h : lineFree i (d :: ds) = true) : d.pulled = false ∧ i ≤ d.us ∧ lineFree i ds = true := by
  simp [lineFree] at h ⊢; exact ⟨h.1.1, h.1.2, h.2⟩

/-- BT.IDLEWAIT and the ten cells of one byte on a free line (R141, R143). -/
theorem run_byte (tx : Tx) (ds more : List Draw) (s : State)
    (hs : s.seq = .idleEnter tx) (hd : s.drv = false) (hl : ds.length = 23) (hf : lineFree (3 * s.bitp) ds = true) :
    ∃ hs, run (ds ++ more) s = andThen (settle (byteSent tx { s with
      txCells := s.txCells ++ cellsOfByte tx.byte
      micros := s.micros + (ds.map Draw.us).sum + 10 * s.bitp
      millis := s.millis + (ds.map Draw.ms).sum
      tmp := { s.tmp with hs := hs } })) (run more) := by
  match ds, hl with
  | d0 :: d1 :: d2 :: ds, hl =>
  obtain ⟨h0, i0, hf⟩ := lineFree_cons hf
  obtain ⟨h1, i1, hf⟩ := lineFree_cons hf
  obtain ⟨h2, i2, hf⟩ := lineFree_cons hf
  refine ⟨s.micros + d0.us, ?_⟩
  obtain ⟨st⟩ := s
  dsimp only at hs hd
  subst hs hd
  simp only [List.cons_append]
  rw [run_settle (by simp)]
  simp only [primitive, idleStamp, andThen_next]
  rw [settle_busy (by simp)]
  simp only [andThen_next]
  rw [run_settle (by simp)]
  simp only [primitive, goTo, idleRead, lineHigh, andThen_next, tick, h1]
  rw [if_pos (by simp), settle_busy (by simp)]
  simp only [andThen_next]
  rw [run_settle (by simp)]
  simp only [primitive, andThen_next]
  rw [idleCheck_ready _ _ _ (by simp [idleOf, Config.idleFactor] at *; omega), settle_busy (by simp)]
  simp only [tick]
  simp only [andThen_next, goTo]
  rw [run_cells _ _ tx ds more _ rfl (by simp [bitsOfByte] at hl ⊢; omega)]
  congr 2
  refine Eq.trans ?_ (byteSent_seq tx (.cellPin false (bitsOfByte tx.byte ++ [true]) tx) _)
  congr 1
  simp [bitsOfByte, cellsOfByte]
  constructor <;> ring


/-- FC.TXFRAME on a free line (R171): every byte of the frame, then its caller. -/
theorem run_bytes (after : After) : ∀ (rest : List Byte) (b : Byte) (ds more : List Draw) (s : State),
    s.seq = .idleEnter ⟨b, rest, after⟩ → s.drv = false → ds.length = callsToSend (rest.length + 1) →
    lineFree (3 * s.bitp) ds = true →
    ∃ hs, run (ds ++ more) s = andThen (settle (frameSent after { s with
      txBytes := s.txBytes ++ (b :: rest)
      txCells := s.txCells ++ (b :: rest).flatMap cellsOfByte
      micros := s.micros + (ds.map Draw.us).sum + 10 * s.bitp * (rest.length + 1)
      millis := s.millis + (ds.map Draw.ms).sum
      tmp := { s.tmp with hs := hs } })) (run more) := by
  intro rest
  induction rest with
  | nil =>
    intro b ds more s hs hd hl hf
    obtain ⟨h, e⟩ := run_byte _ ds more s hs hd (by simpa [callsToSend] using hl) hf
    refine ⟨h, ?_⟩
    rw [e]; simp [byteSent]
  | cons x rest ih =>
    intro b ds more s hs hd hl hf
    have hl1 : (ds.take 23).length = 23 := by simp [callsToSend] at hl ⊢; omega
    have hl2 : (ds.drop 23).length = callsToSend (rest.length + 1) := by simp [callsToSend] at hl ⊢; omega
    have hf1 : lineFree (3 * s.bitp) (ds.take 23) = true := by
      simp only [lineFree, List.all_eq_true] at hf ⊢; exact fun d h => hf d (List.mem_of_mem_take h)
    have hf2 : lineFree (3 * s.bitp) (ds.drop 23) = true := by
      simp only [lineFree, List.all_eq_true] at hf ⊢; exact fun d h => hf d (List.mem_of_mem_drop h)
    obtain ⟨h, e⟩ := run_byte _ (ds.take 23) (ds.drop 23 ++ more) s hs hd hl1 hf1
    rw [← List.append_assoc, List.take_append_drop] at e
    simp only [byteSent] at e
    rw [settle_busy (by simp)] at e
    simp only [andThen_next] at e
    have hq : (goTo (.idleEnter ⟨x, rest, after⟩) s).seq = .idleEnter ⟨x, rest, after⟩ := rfl
    obtain ⟨h', e'⟩ := ih x (ds.drop 23) more (goTo _ { s with txBytes := _, txCells := _, micros := _, millis := _, tmp := _ }) rfl hd hl2 hf2
    refine ⟨h', ?_⟩
    rw [e, e']
    congr 2
    simp only [goTo]
    rw [← frameSent_seq after (.idleEnter ⟨b, x :: rest, after⟩)]
    rw [← frameSent_seq after (.idleEnter ⟨b, x :: rest, after⟩) { s with txBytes := _, txCells := _, micros := _, millis := _, tmp := _ }]
    congr 1
    have s1 : (ds.map Draw.us).sum = ((ds.take 23).map Draw.us).sum + ((ds.drop 23).map Draw.us).sum := by
      rw [← List.sum_append, ← List.map_append, List.take_append_drop]
    have s2 : (ds.map Draw.ms).sum = ((ds.take 23).map Draw.ms).sum + ((ds.drop 23).map Draw.ms).sum := by
      rw [← List.sum_append, ← List.map_append, List.take_append_drop]
    rw [s1, s2]
    simp only [List.flatMap_cons, List.append_assoc, List.length_cons, List.singleton_append, State.mk.injEq, true_and, and_true]
    constructor
    · ring
    · ring

theorem settle_of_feed_nil {u : State} (h : u.feed = []) : settle u = .next u := by
  unfold settle; split
  · rw [h]; simp; rw [← h]
  · rfl

theorem frameSent_feed (a s) : (frameSent a s).feed = s.feed := by
  unfold frameSent; split
  · split <;> rfl
  · unfold endProcess; rw [retryTick_eq]; unfold deliver; repeat' split <;> try rfl
  · rfl
  · rfl

/-- FC.TXFRAME where `canSend` holds, at either level. The listed draws are a separate argument of `run`; the field `env` is overwritten at its end. -/
theorem run_sendBytes_env (bytes : List Byte) (after : After) (s : State) (x : List Draw) (hb : bytes ≠ []) (hf : s.feed = [])
    (hc : canSend bytes s = true) :
    ∃ hs, run s.env (sendBytes bytes after { s with env := x }) =
      run (sentState bytes hs s).env (frameSent after { sentState bytes hs s with env := x }) := by
  unfold canSend at hc
  unfold sendBytes sentState
  cases hlv : s.straps.level with
  | byte => exact ⟨0, rfl⟩
  | wire =>
    rw [hlv] at hc
    cases bytes with
    | nil => exact absurd rfl hb
    | cons b rest =>
      simp at hc
      obtain ⟨⟨hd, hl⟩, hfree⟩ := hc
      have hlen : (s.env.take (callsToSend (rest.length + 1))).length = callsToSend (rest.length + 1) := by simpa using hl
      obtain ⟨h, e⟩ := run_bytes after rest b (s.env.take (callsToSend (rest.length + 1))) (s.env.drop (callsToSend (rest.length + 1)))
        (goTo (.idleEnter ⟨b, rest, after⟩) { s with env := x }) rfl hd hlen hfree
      rw [List.take_append_drop] at e
      refine ⟨h, ?_⟩
      simp only [List.length_cons]
      rw [e, settle_of_feed_nil (by rw [frameSent_feed]; exact hf), andThen_next]
      congr 1
      refine Eq.trans ?_ (frameSent_seq after (.idleEnter ⟨b, rest, after⟩) _)
      congr 1
      simp only [goTo, hd]

/-- The same for the state as it is. -/
theorem run_sendBytes (bytes : List Byte) (after : After) (s : State) (hb : bytes ≠ []) (hf : s.feed = [])
    (hc : canSend bytes s = true) :
    ∃ hs, run s.env (sendBytes bytes after s) =
      run (sentState bytes hs s).env (frameSent after { sentState bytes hs s with env := s.env }) :=
  run_sendBytes_env bytes after s s.env hb hf hc

theorem clampLen_clampLen (p len) : clampLen p (clampLen p len) = clampLen p len := by simp [clampLen]

theorem encodeFrame_clampLen (p t i x len) : encodeFrame p t i x (clampLen p len) = encodeFrame p t i x len := by
  simp only [encodeFrame, clampLen_clampLen]

/-- PE.NEWID (R205) in the terms of the claims. -/
theorem newId_eq (s : State) : newId s = idDrawn s := by
  unfold newId idDrawn bumpId
  congr 1
  by_cases h : s.straps.idSkipZero = true
  · simp only [h, Bool.true_and, true_and, beq_iff_eq]
    have : s.nextId + 1 = 0 ↔ s.nextId = 255 := by constructor <;> intro e <;> bv_omega
    simp only [this]
  · simp [h]

theorem sentState_env (x hs hs' s) : (sentState x hs s).env = (sentState x hs' s).env := by
  unfold sentState; split <;> rfl

theorem sentState_idDrawn_env (x hs hs' s) : (sentState x hs (idDrawn s)).env = (sentState x hs' s).env := by
  unfold sentState; have : (idDrawn s).straps.level = s.straps.level := rfl
  rw [this]; cases h : s.straps.level <;> rfl

/-- One primitive step with no received byte waiting. -/
theorem advance_of {d s u} (h : primitive d s = .next u) (hf : u.feed = []) : advance d s = .next u := by
  unfold advance; rw [h]; exact settle_of_feed_nil hf

theorem sentState_straps (x hs s) : (sentState x hs s).straps = s.straps := by unfold sentState; split <;> rfl
theorem sentState_pend (x hs s) : (sentState x hs s).pend = s.pend := by unfold sentState; split <;> rfl
theorem sentState_responses (x hs s) : (sentState x hs s).responses = s.responses := by unfold sentState; split <;> rfl
theorem sentState_seq (x hs s) : (sentState x hs s).seq = s.seq := by unfold sentState; split <;> rfl
theorem sentState_feed (x hs s) : (sentState x hs s).feed = s.feed := by unfold sentState; split <;> rfl
theorem sentState_events (x hs s) : (sentState x hs s).events = s.events := by unfold sentState; split <;> rfl

theorem sentState_rxBuf (x hs s) : (sentState x hs s).rxBuf = s.rxBuf := by unfold sentState; split <;> rfl
theorem sentState_rxLen (x hs s) : (sentState x hs s).rxLen = s.rxLen := by unfold sentState; split <;> rfl
theorem sentState_handlerEn (x hs s) : (sentState x hs s).handlerEn = s.handlerEn := by unfold sentState; split <;> rfl
theorem sentState_dup (x hs s) : (sentState x hs s).tmp.dup = s.tmp.dup := by unfold sentState; split <;> rfl

/-- SEND at its clock read: the time stamp, the active slot, the response (R206). -/
theorem run_sendStamp (i d rest) (u : State) (hf : u.feed = []) :
    run (d :: rest) (goTo (.sendStamp i) u) =
      .next { useDraw d rest u with
        seq := .idle, responses := u.responses ++ [.byte i]
        pend := { u.pend with active := true, needAck := true, lastMs := readMillis (useDraw d rest u) } } := by
  rw [run_busy _ _ _ (by simp), advance_of (u := fillSlot i (tick d (goTo (.sendStamp i) u))) rfl (by exact hf),
    andThen_next, run_of_idle _ _ rfl]
  rfl

/-- PE.SENDHELLO after its frame (R209). -/
theorem run_helloStamp (d rest x) (u : State) (hf : u.feed = []) :
    run (d :: rest) (goTo .helloStamp { u with env := x }) =
      .next { useDraw d rest u with seq := .idle, lastHello := readMillis (useDraw d rest u) } := by
  rw [run_busy _ _ _ (by simp), advance_of (u := helloStamped (tick d (goTo .helloStamp { u with env := x }))) rfl hf,
    andThen_next, run_of_idle _ _ rfl]
  rfl

theorem sendBytes_env (x a s) : (sendBytes x a s).env = s.env := by
  unfold sendBytes frameSent endProcess deliver
  simp only [retryTick_eq]
  repeat' split
  all_goals rfl

theorem sendBytes_seq (b r a p s) : sendBytes (b :: r) a { s with seq := p } = sendBytes (b :: r) a s := by
  unfold sendBytes
  cases h : s.straps.level with
  | byte => exact frameSent_seq a p { s with txBytes := s.txBytes ++ (b :: r) }
  | wire => rfl

/-- PE.SENDHELLO where it can send (R209). -/
theorem run_sendHello (s : State) (x) (hs : s.seq = .idle) (hf : s.feed = []) 
    (hc : canSend (encodeFrame s.straps 0 s.nextId [s.straps.devId] 1) s = true)
    (d rest) (henv : (sentState (encodeFrame s.straps 0 s.nextId [s.straps.devId] 1) 0 s).env = d :: rest) :
    ∃ hs, run s.env (sendHello { s with env := x }) = 
      (let t := useDraw d rest (sentState (encodeFrame s.straps 0 s.nextId [s.straps.devId] 1) hs (idDrawn s))
       .next { t with lastHello := readMillis t }) := by
  have e0 : sendHello { s with env := x } = sendBytes (encodeFrame s.straps 0 s.nextId [s.straps.devId] 1) .hello { (idDrawn s) with env := x } := by
    unfold sendHello txFrame; rw [newId_eq]; rfl
  generalize hfr : encodeFrame s.straps 0 s.nextId [s.straps.devId] 1 = frame at *
  obtain ⟨h, e⟩ := run_sendBytes_env frame .hello (idDrawn s) x (by rw [← hfr]; simp [encodeFrame]) hf hc
  refine ⟨h, ?_⟩
  rw [e0, show s.env = (idDrawn s).env from rfl, e, sentState_idDrawn_env _ _ 0, henv]
  simp only [frameSent]
  have hq : (sentState frame h (idDrawn s)).seq = .idle := (sentState_seq ..).trans hs
  have hfe : (sentState frame h (idDrawn s)).feed = [] := (sentState_feed ..).trans hf
  generalize sentState frame h (idDrawn s) = u at *
  rw [run_helloStamp _ _ _ u hfe, ← hq]
  rfl

/-- A step of a busy block with a listed draw. -/
theorem step_of_primitive (d rest) (s u : State) (henv : s.env = d :: rest) (hne : s.seq ≠ .idle) (hp : primitive d s = .next u) (hf : u.feed = []) :
    step s = run rest u := by
  have hr : ready s = false := (not_ready_iff s).mpr hne
  unfold step; rw [hr]; simp only [resume, henv]
  simp only [Bool.false_eq_true, if_false]
  rw [run_busy _ _ _ hne, advance_of hp hf, andThen_next]

/-- PE.RETRYTICK after its frame (R207), periodic HELLO off. -/
theorem run_retryStamp (d rest x) (u : State) (hf : u.feed = []) (hh : u.helloInt = 0) :
    run (d :: rest) (goTo .retryStamp { u with env := x }) =
      .next { useDraw d rest u with seq := .idle, pend := { u.pend with lastMs := readMillis (useDraw d rest u) } } := by
  rw [run_busy _ _ _ (by simp), advance_of (u := retryStamped (tick d (goTo .retryStamp { u with env := x }))) rfl ?_,
    andThen_next]
  · unfold retryStamped; rw [helloTick_eq, if_pos, run_of_idle _ _ rfl]; rfl
    exact hh
  · unfold retryStamped; rw [helloTick_eq]; exact hf

end Sys2Proof.Machine
end

