-- ==== Sys2Proof/Laws/Receive.lean ====
section
/-! SUPPORT. Receiving, said once: what each byte of a frame does to the reassembly, and what PE.PROCESS finds. -/
namespace Sys2Proof.Machine

theorem noDeadline_iff (s) : noDeadline s = true ↔ pendWaits s = false ∧ s.helloInt = 0 := by
  simp [noDeadline]

/-- A POLL with no deadline watched ends with its receive attempt (R207, R210). -/
theorem retryTick_none {s : State} (h : noDeadline s = true) : retryTick s = goTo .idle s := by
  obtain ⟨a, b⟩ := (noDeadline_iff s).mp h
  rw [retryTick_eq, a, b]; simp

/-- Where a POLL stands once its byte is processed, in the terms of the claims (R212). -/
theorem retryTick_ticksFrom (s : State) :
    retryTick s = { s with seq := ticksFrom (s.pend.active && s.pend.needAck) s } := by rw [retryTick_eq]; rfl

theorem goTo_idle {s : State} (h : s.seq = .idle) : goTo .idle s = s := by unfold goTo; rw [← h]

theorem receiveAll_step {b rest s t} (h : received b { s with feed := rest } = .next t) (ht : t.seq = .idle) :
    receiveAll (b :: rest) s = receiveAll rest t := by
  rw [receiveAll_cons, h, andThen_next, if_pos (by simpa using ht)]

theorem receiveAll_feed (x y s) : receiveAll x { s with feed := y } = receiveAll x s := by
  cases x <;> rfl

theorem stepStart_start (s : State) : stepStart 0xA5 s = { s with rxState := .awaitingLength } := rfl
theorem stepStart_other {b : Byte} (s : State) (h : b ≠ 0xA5) : stepStart b s = s := if_neg h
/-- The LENGTH range of R102. -/
theorem lengthInRange_iff (m : Nat) (l : Byte) : lengthInRange m l = true ↔ 3 ≤ l.toNat ∧ l.toNat ≤ m + 3 := by
  simp only [lengthInRange, Bool.and_eq_true, decide_eq_true_eq]; rfl
theorem stepLength_in {b : Byte} {s : State} (hl : 3 ≤ b.toNat) (hu : b.toNat ≤ s.straps.maxPayload.val + 3) :
    stepLength b s = { s with rxLen := b, rxIdx := 0, rxState := .readingBody } :=
  if_pos ((lengthInRange_iff _ _).mpr ⟨hl, hu⟩)
theorem stepLength_out {b : Byte} {s : State} (h : b.toNat < 3 ∨ s.straps.maxPayload.val + 3 < b.toNat) :
    stepLength b s = { s with rxIdx := 0, rxState := .awaitingStart } := by
  refine if_neg ?_; rw [lengthInRange_iff]; omega
theorem stepBody_more {b : Byte} {s : State} (h : s.rxIdx + 1 ≠ s.rxLen.toNat) :
    stepBody b s = .next (retryTick (storeBody b s)) := if_neg h
theorem stepBody_last {b : Byte} {s : State} (h : s.rxIdx + 1 = s.rxLen.toNat) :
    stepBody b s = process (storeBody b s) := if_pos h

theorem received_start {b s} (h : s.rxState = .awaitingStart) : received b s = .next (retryTick (stepStart b s)) := by
  unfold received; rw [h]
theorem received_length {b s} (h : s.rxState = .awaitingLength) : received b s = .next (retryTick (stepLength b s)) := by
  unfold received; rw [h]
theorem received_body {b s} (h : s.rxState = .readingBody) : received b s = stepBody b s := by
  unfold received; rw [h]

theorem take_set_succ {α} (l : List α) (i : Nat) (b : α) (h : i < l.length) : (l.set i b).take (i + 1) = l.take i ++ [b] := by
  rw [List.set_eq_take_append_cons_drop, if_pos h]
  have : (l.take i).length = i := by simp; omega
  rw [List.take_append, List.take_of_length_le (by omega), this]
  simp

/-- START and LENGTH (R175, R176). -/
theorem receiveAll_header (length : Byte) (rest : List Byte) (s : State) (hs : s.seq = .idle) (hn : noDeadline s = true)
    (h0 : s.rxState = .awaitingStart) (hl : 3 ≤ length.toNat) (hu : length.toNat ≤ s.straps.maxPayload.val + 3) :
    receiveAll (0xA5 :: length :: rest) s = receiveAll rest { s with rxLen := length, rxIdx := 0, rxState := .readingBody } := by
  have e1 : received 0xA5 { s with feed := length :: rest } = .next { s with rxState := .awaitingLength, feed := length :: rest } := by
    unfold received; rw [h0]; dsimp only; rw [stepStart_start]
    rw [retryTick_none (s := { s with rxState := .awaitingLength, feed := length :: rest }) hn, goTo_idle]; exact hs
  have e2 : received length { s with rxState := .awaitingLength, feed := rest } = .next { s with rxLen := length, rxIdx := 0, rxState := .readingBody, feed := rest } := by
    unfold received; dsimp only; 
    rw [stepLength_in (s := { s with rxState := .awaitingLength, feed := rest }) hl hu, retryTick_none (s := { s with rxLen := length, rxIdx := 0, rxState := .readingBody, feed := rest }) hn, goTo_idle]
    · exact hs
  rw [receiveAll_step e1 hs]
  rw [receiveAll_step (s := { s with rxState := .awaitingLength, feed := length :: rest }) e2 hs]
  exact receiveAll_feed rest rest { s with rxLen := length, rxIdx := 0, rxState := .readingBody }

theorem receiveAll_body : ∀ (x rest : List Byte) (s : State), s.seq = .idle → noDeadline s = true → s.rxState = .readingBody →
    s.rxIdx + x.length < s.rxLen.toNat → s.rxLen.toNat ≤ s.rxBuf.length →
    receiveAll (x ++ rest) s = receiveAll rest { s with
      rxBuf := s.rxBuf.take s.rxIdx ++ x ++ s.rxBuf.drop (s.rxIdx + x.length), rxIdx := s.rxIdx + x.length } := by
  intro x
  induction x with
  | nil => intro rest s _ _ _ _ _; simp
  | cons b x ih =>
    intro rest s hs hn h0 hl hb
    have e1 : received b { s with feed := x ++ rest } = .next { s with rxBuf := s.rxBuf.set s.rxIdx b, rxIdx := s.rxIdx + 1, feed := x ++ rest } := by
      
      rw [received_body (by exact h0), stepBody_more, retryTick_none, goTo_idle]
      · rfl
      · exact hs
      · exact hn
      · simp only [List.length_cons] at hl
        show ¬ (s.rxIdx + 1 = s.rxLen.toNat); omega
    rw [List.cons_append, receiveAll_step e1 hs, ih]
    · simp only [List.length_cons] at hl
      have hbuf : (s.rxBuf.set s.rxIdx b).take (s.rxIdx + 1) ++ x ++ (s.rxBuf.set s.rxIdx b).drop (s.rxIdx + 1 + x.length)
          = s.rxBuf.take s.rxIdx ++ b :: x ++ s.rxBuf.drop (s.rxIdx + (b :: x).length) := by
        have h1 : (s.rxBuf.set s.rxIdx b).take (s.rxIdx + 1) = s.rxBuf.take s.rxIdx ++ [b] := by
          exact take_set_succ _ _ _ (by omega)
        have h2 : (s.rxBuf.set s.rxIdx b).drop (s.rxIdx + 1 + x.length) = s.rxBuf.drop (s.rxIdx + 1 + x.length) := by
          rw [List.drop_set_of_lt (by omega)]
        rw [h1, h2]; simp; congr 1; omega
      dsimp only
      rw [hbuf]
      rw [show s.rxIdx + 1 + x.length = s.rxIdx + (b :: x).length by simp; omega]
      exact receiveAll_feed rest (x ++ rest) { s with rxBuf := s.rxBuf.take s.rxIdx ++ b :: x ++ s.rxBuf.drop (s.rxIdx + (b :: x).length), rxIdx := s.rxIdx + (b :: x).length }
    · exact hs
    · exact hn
    · exact h0
    · simp at hl ⊢; omega
    · simpa using hb

/-- A frame up to its checksum byte. -/
theorem receiveAll_upto_checksum (length type id checksum : Byte) (payload : List Byte) (s : State) (hs : s.seq = .idle) (hn : noDeadline s = true)
    (h0 : s.rxState = .awaitingStart) (hb : s.rxBuf.length = maxBody s.straps)
    (hl : 3 ≤ length.toNat) (hu : length.toNat ≤ s.straps.maxPayload.val + 3) (hp : payload.length + 3 = length.toNat) :
    receiveAll (frameBytes length type id payload checksum) s =
      receiveAll [checksum] { s with rxLen := length, rxState := .readingBody, rxIdx := payload.length + 2, rxBuf := [type, id] ++ payload ++ s.rxBuf.drop (payload.length + 2) } := by
  have : frameBytes length type id payload checksum = 0xA5 :: length :: (([type, id] ++ payload) ++ [checksum]) := rfl
  rw [this, receiveAll_header _ _ _ hs hn h0 hl hu, receiveAll_body]
  · simp
  · exact hs
  · exact hn
  · rfl
  · simp; omega
  · show length.toNat ≤ s.rxBuf.length
    rw [hb]; exact hu

theorem deliver_feed (s) : (deliver s).feed = s.feed := by unfold deliver; repeat' split <;> try rfl
theorem endProcess_feed (s) : (endProcess s).feed = s.feed := by unfold endProcess; rw [retryTick_eq]; rfl
theorem sendBytes_feed (x a s) : (sendBytes x a s).feed = s.feed := by
  unfold sendBytes; split
  · rw [frameSent_feed]
  · rfl
  · rw [frameSent_feed]
/-- PE.PROCESS does not see the bytes still to come. -/
theorem process_feed {s t} (h : process s = .next t) : t.feed = s.feed := by
  have h1 : (capturePeer s).feed = s.feed := by unfold capturePeer; split <;> rfl
  have h2 (x) : (matchAck x).feed = x.feed := by unfold matchAck; split <;> rfl
  have h3 (x) : (filterDuplicate x).feed = x.feed := by unfold filterDuplicate; repeat' split <;> try rfl
  unfold process at h
  split at h
  · cases h; exact endProcess_feed s
  split at h
  · cases h
  dsimp only at h
  split at h
  · cases h; rw [endProcess_feed, deliver_feed, h3, h2, h1]
  · cases h; unfold txFrame; rw [sendBytes_feed, h3, h2, h1]

/-- The last body byte hands the frame to PE.PROCESS (R177). -/
theorem receiveAll_last {b : Byte} {s : State} (h0 : s.rxState = .readingBody) (h : s.rxIdx + 1 = s.rxLen.toNat) :
    receiveAll [b] s = process (storeBody b { s with feed := [] }) := by
  rw [receiveAll_cons, received_body (by exact h0), stepBody_last (by exact h)]
  cases hp : process (storeBody b { s with feed := [] }) with
  | next t =>
    have : t.feed = [] := process_feed hp
    simp only [andThen_next]
    split
    · rw [receiveAll_nil]; congr 1; rw [← this]
    · rfl
  | fault r => rfl
  | refused r => rfl

theorem drop_set (s : List Byte) (n : Nat) (pre : List Byte) (c : Byte) (hp : pre.length = n) (h : n < s.length) :
    (pre ++ s.drop n).set n c = (pre ++ [c]) ++ s.drop (n + 1) := by
  rw [List.set_append_right _ _ (by omega), hp, Nat.sub_self, List.drop_eq_getElem_cons h]
  simp only [List.set_cons_zero, List.append_assoc, List.singleton_append]

/-- The complete body of a frame stands in `RXBUF` (R195). -/
structure Stored (length type id checksum : Byte) (payload : List Byte) (t : State) : Prop where
  len : t.rxLen = length
  size : payload.length + 3 = length.toNat
  buf : ∃ z, t.rxBuf = [type, id] ++ payload ++ [checksum] ++ z

variable {ln ty i ck : Byte} {pl : List Byte} {t : State}
theorem Stored.type (h : Stored ln ty i ck pl t) : bodyType t = ty := by
  obtain ⟨z, e⟩ := h.buf
  simp [bodyType, rxByte, e]
theorem Stored.id (h : Stored ln ty i ck pl t) : bodyId t = i := by
  obtain ⟨z, e⟩ := h.buf; simp [bodyId, rxByte, e]
theorem Stored.n (h : Stored ln ty i ck pl t) : bodySize t = pl.length := by
  have := h.size; simp [bodySize, payloadSize, h.len, Config.lengthMin]; omega
theorem Stored.payload (h : Stored ln ty i ck pl t) : bodyPayload t = pl := by
  obtain ⟨z, e⟩ := h.buf; simp [bodyPayload, h.n, e]
theorem Stored.valid (h : Stored ln ty i ck pl t) : validBody t = (crcFrame ln ty i pl == ck) := by
  obtain ⟨z, e⟩ := h.buf
  have hl : t.rxLen.toNat - 1 = pl.length + 2 := by have := h.size; rw [h.len]; omega
  have e1 : bodyChecksum t = ck := by
    simp only [bodyChecksum, rxByte, hl, e]; simp [List.getD_eq_getElem?_getD]
  unfold validBody; rw [e1, hl, e, h.len]
  have : List.take (pl.length + 2) ([ty, i] ++ pl ++ [ck] ++ z) = [ty, i] ++ pl := by
    rw [List.append_assoc, List.take_append_of_le_length (by simp), List.take_of_length_le (by simp)]
  rw [this]; rfl

/-- The state in which PE.PROCESS finds a received frame (R177). -/
def bodyComplete (length type id checksum : Byte) (payload : List Byte) (s : State) : State :=
  { s with rxLen := length, rxState := .readingBody, rxIdx := payload.length + 3,
           rxBuf := [type, id] ++ payload ++ [checksum] ++ s.rxBuf.drop (payload.length + 3), feed := [] }

/-- A frame received by an idle block with no deadline watched is what PE.PROCESS makes of it (R180). -/
theorem receiveAll_frame {length type id checksum : Byte} {payload : List Byte} (s : State) (hs : s.seq = .idle) (hn : noDeadline s = true)
    (h0 : s.rxState = .awaitingStart) (hb : s.rxBuf.length = maxBody s.straps)
    (hl : 3 ≤ length.toNat) (hu : length.toNat ≤ s.straps.maxPayload.val + 3) (hp : payload.length + 3 = length.toNat) :
    receiveAll (frameBytes length type id payload checksum) s = process (bodyComplete length type id checksum payload s) ∧
      Stored length type id checksum payload (bodyComplete length type id checksum payload s) := by
  refine ⟨?_, rfl, hp, _, rfl⟩
  rw [receiveAll_upto_checksum _ _ _ _ _ _ hs hn h0 hb hl hu hp, receiveAll_last rfl (by simp; omega)]
  congr 1
  unfold storeBody bodyComplete
  dsimp only
  rw [drop_set _ _ _ _ (by simp) (by rw [hb]; simp [maxBody, Config.lengthMin]; omega)]

theorem endProcess_none {s : State} (hn : noDeadline s = true) : endProcess s = goTo .idle (resetReassembly s) := by
  unfold endProcess; exact retryTick_none hn

theorem noDeadline_pend {s : State} (h : noDeadline s = true) : pendWaits s = false := ((noDeadline_iff s).mp h).1

theorem frameOk_parts {m : Nat} {length type id checksum : Byte} {payload : List Byte} (hw : frameOk m length type id payload checksum = true) :
    3 ≤ length.toNat ∧ length.toNat ≤ m + 3 ∧ payload.length + 3 = length.toNat ∧ checksum = crcFrame length type id payload := by
  simp only [frameOk, Bool.and_eq_true, lengthInRange_iff, frameShape, beq_iff_eq] at hw
  obtain ⟨⟨⟨hl, hu⟩, hsh⟩, hck⟩ := hw
  simp only [payloadSize, Config.lengthMin] at hsh
  exact ⟨hl, hu, by omega, hck⟩

/-- The automatic acknowledgment of R201, byte by byte. -/
theorem encodeFrame_ack (p : Straps) (id : Byte) : encodeFrame p Config.typeAck id [] 0 = ackBytes id := by
  have h : lengthOf 0 = 3 := rfl
  have h2 : Config.typeAck = 2 := rfl
  have h3 : Config.start = 0xA5 := rfl
  simp only [encodeFrame, clampLen, Nat.zero_min, List.take_nil, h, h2, h3, ackBytes, crcFrame]; rfl

theorem receiveFrame_env {x s t} (h : receiveAll x s = .next t) (he : t.env = s.env) : receiveFrame x s = run s.env t := by
  unfold receiveFrame begin; rw [h, andThen_next]; unfold runCommand; rw [he]


theorem sentState_noDeadline (x hs s) : noDeadline (sentState x hs s) = noDeadline s := by unfold sentState; split <;> rfl

/-- PE.PROCESS steps 6 and 7 for a body that is not an ACK (R202, R203). -/
theorem deliver_event {t : State} (h : bodyType t ≠ 2) :
    deliver t = { t with events := if t.handlerEn && !t.tmp.dup then
      t.events ++ [⟨bodyId t, bodyType t, bodyPayload t, bodySize t⟩] else t.events } := by
  unfold deliver
  by_cases hd : t.tmp.dup = true
  · rw [if_pos hd]; simp [hd]
  · rw [if_neg hd]
    by_cases hh : t.handlerEn = true
    · rw [if_pos ⟨h, hh⟩]; simp [raiseEvent, hh, hd]
    · rw [if_neg (by simp [hh])]
      have : (t.handlerEn && !t.tmp.dup) = false := by simp [hh]
      simp only [this, Bool.false_eq_true, if_false]

/-- The same in terms of the frame received. -/
theorem deliver_stored {ln ty i ck pl t} (st : Stored ln ty i ck pl t) (hty : ty ≠ 2) :
    deliver t = { t with events := if t.handlerEn && !t.tmp.dup then t.events ++ [⟨i, ty, pl, pl.length⟩] else t.events } := by
  rw [deliver_event (by rwa [st.type]), st.type, st.id, st.n, st.payload]

/-- PE.PROCESS from step 5 on, in every state (R201 to R203): the acknowledgment is out, then the frame is delivered. -/
theorem run_autoAck (id : Byte) (t : State) (hf : t.feed = []) (hc : canSend (ackBytes id) t = true) :
    ∃ hs, run t.env (sendBytes (ackBytes id) .autoAck t) = run (sentState (ackBytes id) hs t).env
      (endProcess (deliver { sentState (ackBytes id) hs t with env := t.env })) :=
  run_sendBytes (ackBytes id) .autoAck t (by simp [ackBytes]) hf hc

/-- PE.PROCESS from step 5 on (R201 to R203): the acknowledgment, the event, reassembly back at its start. -/
theorem run_ack {ln ty i ck pl} (t : State) (st : Stored ln ty i ck pl t) (hty : ty ≠ 2) (hn : noDeadline t = true) (hf : t.feed = [])
    (hc : canSend (ackBytes i) t = true) :
    ∃ hs, run t.env (sendBytes (ackBytes i) .autoAck t) = .next { sentState (ackBytes i) hs t with
       rxState := .awaitingStart, rxIdx := 0, seq := .idle
       events := if t.handlerEn && !t.tmp.dup then t.events ++ [⟨i, ty, pl, pl.length⟩] else t.events } := by
  obtain ⟨h, e⟩ := run_autoAck i t hf hc
  refine ⟨h, ?_⟩
  rw [e]
  have st' : Stored ln ty i ck pl { sentState (ackBytes i) h t with env := t.env } :=
    ⟨(sentState_rxLen ..).trans st.len, st.size, by obtain ⟨z, ez⟩ := st.buf; exact ⟨z, (sentState_rxBuf ..).trans ez⟩⟩
  rw [deliver_stored st' hty, endProcess_none (by exact (sentState_noDeadline (ackBytes i) h t).trans hn), run_of_idle _ _ rfl]
  simp only [goTo, resetReassembly, sentState_handlerEn, sentState_dup, sentState_events]

end Sys2Proof.Machine
end

