-- ==== Sys2Proof/Laws/Environment.lean ====
section
/-! SUPPORT. What a command does not see: the list of draws while it runs over one (`run` has the draws as its argument and
writes the field at its end), and, once a byte has been received, the position BT.RXBYTE returned from. -/
namespace Sys2Proof.Machine

/-- An outcome with another list of draws in its next state. -/
def withEnv (e : List Draw) (o : Out) : Out := andThen o fun t => .next { t with env := e }

@[simp] theorem withEnv_next (e : List Draw) (t : State) : withEnv e (.next t) = .next { t with env := e } := rfl

theorem withEnv_andThen {e : List Draw} (o : Out) {f : State → Out}
    (h : ∀ t, f { t with env := e } = withEnv e (f t)) : andThen (withEnv e o) f = withEnv e (andThen o f) := by
  cases o with
  | next t => exact h t
  | fault r => rfl
  | refused r => rfl

/-- The three states of the reassembly (R28). -/
theorem rxState_cases (s : State) :
    s.rxState = .awaitingStart ∨ s.rxState = .awaitingLength ∨ s.rxState = .readingBody := by
  cases s.rxState <;> simp

/-! ### The list of draws -/

section Env
variable (e : List Draw) (s : State)

theorem retryTick_env : retryTick { s with env := e } = { retryTick s with env := e } := by
  rw [retryTick_eq, retryTick_eq]; rfl

theorem helloTick_env : helloTick { s with env := e } = { helloTick s with env := e } := by
  rw [helloTick_eq, helloTick_eq]; rfl

theorem endProcess_env : endProcess { s with env := e } = { endProcess s with env := e } := by
  unfold endProcess; exact retryTick_env e (resetReassembly s)

theorem deliver_env : deliver { s with env := e } = { deliver s with env := e } := by
  unfold deliver
  by_cases h1 : s.tmp.dup = true
  · rw [if_pos h1, if_pos h1]
  · rw [if_neg h1, if_neg h1]
    by_cases h2 : bodyType s ≠ Config.typeAck ∧ s.handlerEn = true
    · rw [if_pos h2, if_pos (by exact h2)]; rfl
    · rw [if_neg h2, if_neg (by exact h2)]

theorem frameSent_env (a : After) : frameSent a { s with env := e } = { frameSent a s with env := e } := by
  cases a with
  | send p n i k =>
    simp only [frameSent]
    by_cases h : claimsSlot k s = true
    · rw [if_pos h, if_pos (by exact h)]; rfl
    · rw [if_neg h, if_neg (by exact h)]; rfl
  | autoAck => simp only [frameSent]; rw [deliver_env, endProcess_env]
  | retry => rfl
  | hello => rfl

theorem sendBytes_withEnv (x : List Byte) (a : After) :
    sendBytes x a { s with env := e } = { sendBytes x a s with env := e } := by
  unfold sendBytes
  cases s.straps.level with
  | byte => exact frameSent_env e { s with txBytes := s.txBytes ++ x } a
  | wire =>
    cases x with
    | nil => exact frameSent_env e s a
    | cons b rest => rfl

theorem capturePeer_env : capturePeer { s with env := e } = { capturePeer s with env := e } := by
  unfold capturePeer
  by_cases h : bodyType s = Config.typeHello ∧ 1 ≤ bodySize s
  · rw [if_pos h, if_pos (by exact h)]; rfl
  · rw [if_neg h, if_neg (by exact h)]

theorem matchAck_env : matchAck { s with env := e } = { matchAck s with env := e } := by
  unfold matchAck
  by_cases h : bodyType s = Config.typeAck ∧ pendWaits s = true ∧ s.pend.id = bodyId s
  · rw [if_pos h, if_pos (by exact h)]; rfl
  · rw [if_neg h, if_neg (by exact h)]

theorem filterDuplicate_env : filterDuplicate { s with env := e } = { filterDuplicate s with env := e } := by
  unfold filterDuplicate
  by_cases h : bodyType s = Config.typeData
  · rw [if_pos h, if_pos (by exact h)]
    by_cases h2 : isDuplicate (bodyId s) s = true
    · rw [if_pos h2, if_pos (by exact h2)]; rfl
    · rw [if_neg h2, if_neg (by exact h2)]; rfl
  · rw [if_neg h, if_neg (by exact h)]; rfl

theorem process_env : process { s with env := e } = withEnv e (process s) := by
  unfold process
  by_cases h1 : validBody s = false
  · rw [if_pos h1, if_pos (by exact h1), endProcess_env]; rfl
  rw [if_neg h1, if_neg (by exact h1)]
  by_cases h2 : knownType (bodyType s) = false
  · rw [if_pos h2, if_pos (by exact h2)]; rfl
  rw [if_neg h2, if_neg (by exact h2)]
  simp only [capturePeer_env, matchAck_env, filterDuplicate_env]
  by_cases h3 : bodyType s = Config.typeAck
  · rw [if_pos h3, if_pos (by exact h3), deliver_env, endProcess_env]; rfl
  · rw [if_neg h3, if_neg (by exact h3)]
    unfold txFrame
    rw [sendBytes_withEnv]; rfl

theorem stepStart_env (b : Byte) : stepStart b { s with env := e } = { stepStart b s with env := e } := by
  unfold stepStart; split <;> rfl

theorem stepLength_env (b : Byte) : stepLength b { s with env := e } = { stepLength b s with env := e } := by
  unfold stepLength
  by_cases h : lengthInRange s.straps.maxPayload.val b = true
  · rw [if_pos h, if_pos (by exact h)]
  · rw [if_neg h, if_neg (by exact h)]

theorem received_env (b : Byte) : received b { s with env := e } = withEnv e (received b s) := by
  obtain h | h | h := rxState_cases s
  · rw [received_start h, received_start (s := { s with env := e }) h, stepStart_env e s, retryTick_env e (stepStart b s)]
    rfl
  · rw [received_length h, received_length (s := { s with env := e }) h, stepLength_env e s,
      retryTick_env e (stepLength b s)]
    rfl
  · rw [received_body h, received_body (s := { s with env := e }) h]
    by_cases h : s.rxIdx + 1 = s.rxLen.toNat
    · rw [stepBody_last h, stepBody_last (s := { s with env := e }) h]; exact process_env e (storeBody b s)
    · rw [stepBody_more h, stepBody_more (s := { s with env := e }) h]
      exact congrArg Host.Outcome.next (retryTick_env e (storeBody b s))

theorem rxBudget_env (p : Pos) (d : Draw) : rxBudget p d { s with env := e } = { rxBudget p d s with env := e } := by
  unfold rxBudget
  by_cases h : readMillis (tick d s) - (tick d s).tmp.t0 > (tick d s).straps.rxTimeoutMs
  · rw [if_pos h, if_pos (by exact h)]; exact retryTick_env e (tick d s)
  · rw [if_neg h, if_neg (by exact h)]; rfl

theorem byteSent_env (tx : Tx) : byteSent tx { s with env := e } = { byteSent tx s with env := e } := by
  obtain ⟨b, rest, after⟩ := tx
  cases rest with
  | nil => exact frameSent_env e { s with txBytes := s.txBytes ++ [b] } after
  | cons x rest => rfl

theorem sendHello_env : sendHello { s with env := e } = { sendHello s with env := e } :=
  sendBytes_withEnv e (newId s) _ _

theorem retryDue_env : retryDue { s with env := e } = { retryDue s with env := e } := by
  unfold retryDue
  by_cases h : readMillis s - s.pend.lastMs > s.ackTo
  · rw [if_pos h, if_pos (by exact h)]
    by_cases h2 : s.pend.retries < s.maxRetry
    · rw [if_pos h2, if_pos (by exact h2)]
      exact sendBytes_withEnv e { s with pend := { s.pend with retries := s.pend.retries + 1 } } _ _
    · rw [if_neg h2, if_neg (by exact h2)]; exact helloTick_env e (releaseSlot s)
  · rw [if_neg h, if_neg (by exact h)]; exact helloTick_env e s

theorem helloDue_env : helloDue { s with env := e } = { helloDue s with env := e } := by
  unfold helloDue
  by_cases h : readMillis s - s.lastHello ≥ s.helloInt
  · rw [if_pos h, if_pos (by exact h)]; exact sendHello_env e s
  · rw [if_neg h, if_neg (by exact h)]; rfl

/-- A choice between two positions by a test that does not see the draws. -/
theorem choose_env (c : Bool) (p q : Pos) (t : State) :
    (if c then goTo p { t with env := e } else goTo q { t with env := e }) =
      { (if c then goTo p t else goTo q t) with env := e } := by cases c <;> rfl

/-- One primitive step does not see the draws behind its own. -/
theorem primitive_env (d : Draw) : primitive d { s with env := e } = withEnv e (primitive d s) := by
  generalize ht : ({ s with env := e } : State) = t
  have hq : t.seq = s.seq := by rw [← ht]
  unfold primitive
  rw [hq]
  cases s.seq with
  | idle => subst ht; rfl
  | idleEnter tx => subst ht; rfl
  | idleRead tx => subst ht; exact congrArg Host.Outcome.next (choose_env e _ _ _ (tick d s))
  | idleLow tx => subst ht; rfl
  | idleCheck tx =>
    subst ht
    refine congrArg Host.Outcome.next ?_
    unfold idleCheck
    by_cases h : (tick d s).micros - (tick d s).tmp.hs ≥ idleOf (tick d s).bitp
    · rw [if_pos h, if_pos (by exact h)]; rfl
    · rw [if_neg h, if_neg (by exact h)]; rfl
  | cellPin level later tx => subst ht; rfl
  | cellDelay later tx =>
    subst ht
    refine congrArg Host.Outcome.next ?_
    cases later with
    | nil => exact byteSent_env e (delay s.bitp d s) tx
    | cons c rest => rfl
  | rxEnter => subst ht; rfl
  | rxLeaveLow => subst ht; exact congrArg Host.Outcome.next (choose_env e _ _ _ (tick d s))
  | rxLeaveLowBudget => subst ht; exact congrArg Host.Outcome.next (rxBudget_env e s _ d)
  | rxWatch => subst ht; exact congrArg Host.Outcome.next (choose_env e _ _ _ (tick d s))
  | rxWatchBudget => subst ht; exact congrArg Host.Outcome.next (rxBudget_env e s _ d)
  | rxEdge => subst ht; rfl
  | rxGlitchDelay => subst ht; rfl
  | rxRecheck =>
    subst ht
    refine congrArg Host.Outcome.next ?_
    unfold rxRecheck
    by_cases h : lineHigh d (tick d s) = true
    · rw [if_pos h, if_pos (by exact h)]; rfl
    · rw [if_neg h, if_neg (by exact h)]; rfl
  | rxTarget i =>
    subst ht
    refine congrArg Host.Outcome.next ?_
    unfold rxTarget
    by_cases h : (tick d s).micros < (tick d s).tmp.target
    · rw [if_pos h, if_pos (by exact h)]; rfl
    · rw [if_neg h, if_neg (by exact h)]; rfl
  | rxTargetBudget i => subst ht; exact congrArg Host.Outcome.next (rxBudget_env e s _ d)
  | rxSample i =>
    subst ht
    simp only [rxSample]
    by_cases h : i ≥ 7
    · rw [if_pos h, if_pos h]
      exact received_env e { tick d s with tmp := { (tick d s).tmp with
        v := if lineHigh d (tick d s) then setBit (tick d s).tmp.v i else (tick d s).tmp.v
        target := (tick d s).tmp.target + (tick d s).bitp } } _
    · rw [if_neg h, if_neg h]; rfl
  | sendStamp id => subst ht; rfl
  | retryNow => subst ht; exact congrArg Host.Outcome.next (retryDue_env e (tick d s))
  | retryStamp => subst ht; exact congrArg Host.Outcome.next (helloTick_env e { tick d s with pend := _ })
  | helloNow => subst ht; exact congrArg Host.Outcome.next (helloDue_env e (tick d s))
  | helloStamp => subst ht; rfl

end Env

theorem receiveAll_withEnv (e : List Draw) : ∀ (x : List Byte) (s : State),
    receiveAll x { s with env := e } = withEnv e (receiveAll x s)
  | [], s => rfl
  | b :: rest, s => by
    rw [receiveAll_cons, receiveAll_cons]
    refine (congrArg (andThen · _) (received_env e { s with feed := rest } b)).trans (withEnv_andThen _ fun t => ?_)
    by_cases h : t.seq.isIdle = true
    · rw [if_pos h, if_pos (by exact h)]; exact receiveAll_withEnv e rest t
    · rw [if_neg h, if_neg (by exact h)]; rfl

theorem advance_env (e : List Draw) (d : Draw) (s : State) : advance d { s with env := e } = withEnv e (advance d s) := by
  unfold advance
  rw [primitive_env]
  refine withEnv_andThen _ fun t => ?_
  by_cases h : t.seq.isIdle = true
  · rw [if_pos h, if_pos (by exact h)]; exact receiveAll_withEnv e t.feed t
  · rw [if_neg h, if_neg (by exact h)]; rfl

/-- A run over listed draws does not see the field: it writes it at its end. -/
theorem run_env : ∀ (ds : List Draw) (e : List Draw) (s : State), run ds { s with env := e } = run ds s
  | [], _, _ => rfl
  | d :: rest, e, s => by
    by_cases h : s.seq = .idle
    · rw [run_idle _ _ _ h, run_idle _ _ _ (by exact h)]
    · rw [run_busy _ _ _ h, run_busy _ _ _ (by exact h), advance_env]
      cases advance d s with
      | next t => exact run_env rest e t
      | fault r => rfl
      | refused r => rfl

/-! ### The position -/

/-- Where BT.RXBYTE returned from does not matter to what follows (R46, R212): the position is overwritten. -/
theorem retryTick_seq (p : Pos) (s : State) : retryTick { s with seq := p } = retryTick s := by
  rw [retryTick_eq, retryTick_eq]; rfl

theorem process_seq (p : Pos) (s : State) : process { s with seq := p } = process s := by
  have h1 : capturePeer { s with seq := p } = { capturePeer s with seq := p } := by
    unfold capturePeer
    by_cases h : bodyType s = Config.typeHello ∧ 1 ≤ bodySize s
    · rw [if_pos h, if_pos (by exact h)]; rfl
    · rw [if_neg h, if_neg (by exact h)]
  have h2 (s : State) : matchAck { s with seq := p } = { matchAck s with seq := p } := by
    unfold matchAck
    by_cases h : bodyType s = Config.typeAck ∧ pendWaits s = true ∧ s.pend.id = bodyId s
    · rw [if_pos h, if_pos (by exact h)]; rfl
    · rw [if_neg h, if_neg (by exact h)]
  have h3 (s : State) : filterDuplicate { s with seq := p } = { filterDuplicate s with seq := p } := by
    unfold filterDuplicate
    by_cases h : bodyType s = Config.typeData
    · rw [if_pos h, if_pos (by exact h)]
      by_cases h2 : isDuplicate (bodyId s) s = true
      · rw [if_pos h2, if_pos (by exact h2)]; rfl
      · rw [if_neg h2, if_neg (by exact h2)]; rfl
    · rw [if_neg h, if_neg (by exact h)]; rfl
  unfold process
  by_cases k1 : validBody s = false
  · rw [if_pos k1, if_pos (by exact k1), endProcess_seq]
  rw [if_neg k1, if_neg (by exact k1)]
  by_cases k2 : knownType (bodyType s) = false
  · rw [if_pos k2, if_pos (by exact k2)]
  rw [if_neg k2, if_neg (by exact k2)]
  simp only [h1, h2, h3]
  by_cases k3 : bodyType s = Config.typeAck
  · rw [if_pos k3, if_pos (by exact k3), deliver_seq, endProcess_seq]
  · rw [if_neg k3, if_neg (by exact k3)]
    exact congrArg Host.Outcome.next (sendBytes_seq _ _ _ p _)

theorem stepStart_seq (b : Byte) (p : Pos) (s : State) : stepStart b { s with seq := p } = { stepStart b s with seq := p } := by
  unfold stepStart; split <;> rfl

theorem stepLength_seq (b : Byte) (p : Pos) (s : State) : stepLength b { s with seq := p } = { stepLength b s with seq := p } := by
  unfold stepLength
  by_cases h : lengthInRange s.straps.maxPayload.val b = true
  · rw [if_pos h, if_pos (by exact h)]
  · rw [if_neg h, if_neg (by exact h)]

theorem received_seq (b : Byte) (p : Pos) (s : State) : received b { s with seq := p } = received b s := by
  obtain h | h | h := rxState_cases s
  · rw [received_start h, received_start (s := { s with seq := p }) h, stepStart_seq, retryTick_seq]
  · rw [received_length h, received_length (s := { s with seq := p }) h, stepLength_seq, retryTick_seq]
  · rw [received_body h, received_body (s := { s with seq := p }) h]
    by_cases h : s.rxIdx + 1 = s.rxLen.toNat
    · rw [stepBody_last h, stepBody_last (s := { s with seq := p }) h]; exact process_seq p (storeBody b s)
    · rw [stepBody_more h, stepBody_more (s := { s with seq := p }) h]
      exact congrArg Host.Outcome.next (retryTick_seq p (storeBody b s))

end Sys2Proof.Machine
end

