-- ==== Sys2Proof/Laws/Listen.lean ====
section
/-! SUPPORT. BT.RXBYTE on the wire, said once: its wait loops, and the sampling of one bit. -/
namespace Sys2Proof.Machine

@[simp] theorem looks_nil : looks [] = [] := rfl
@[simp] theorem looks_cons (x y : Draw) (later : List (Draw × Draw)) : looks ((x, y) :: later) = x :: y :: looks later := rfl

@[simp] theorem elapsed_nil (s : State) : elapsed [] s = s := rfl

theorem elapsed_append (ds es : List Draw) (s : State) : elapsed (ds ++ es) s = elapsed es (elapsed ds s) := by
  simp [elapsed, Nat.add_assoc]

theorem elapsed_seq (ds : List Draw) (s : State) : (elapsed ds s).seq = s.seq := rfl
theorem elapsed_tmp (ds : List Draw) (s : State) : (elapsed ds s).tmp = s.tmp := rfl
theorem elapsed_drv (ds : List Draw) (s : State) : (elapsed ds s).drv = s.drv := rfl
theorem elapsed_bitp (ds : List Draw) (s : State) : (elapsed ds s).bitp = s.bitp := rfl
theorem tick_eq_elapsed (d : Draw) (s : State) : tick d s = elapsed [d] s := by simp [tick, elapsed]

/-- A wait loop of BT.RXBYTE whose condition holds at every read and whose budget tests are within the bound takes time and
does nothing else (R146, R147, R149, R150). -/
theorem run_waits {holds : Draw → State → Bool} {p q : Pos} (hp : p ≠ .idle) (hq : q ≠ .idle)
    (budget : ∀ d u, u.seq = q → primitive d u = .next (rxBudget p d u)) :
    ∀ (ls : List (Draw × Draw)) (more : List Draw) (s : State), s.seq = p →
      (∀ ds d, holds d (elapsed [d] (elapsed ds s)) = true →
        primitive d (elapsed ds s) = .next (goTo q (tick d (elapsed ds s)))) →
      waits holds s.tmp.t0 ls s = true → run (looks ls ++ more) s = run more (elapsed (looks ls) s)
  | [], _, _, _, _, _ => rfl
  | (x, y) :: later, more, s, hs, read, hw => by
    simp only [waits, Bool.and_eq_true, decide_eq_true_eq] at hw
    obtain ⟨⟨hx, hb⟩, hw⟩ := hw
    rw [looks_cons, show x :: y :: looks later = [x, y] ++ looks later from rfl, elapsed_append]
    simp only [List.cons_append, List.nil_append]
    rw [run_settle (by rw [hs]; exact hp), show primitive x s = _ from read [] x hx, andThen_next, settle_busy hq,
      andThen_next, run_settle hq, budget y _ rfl, andThen_next]
    have e : rxBudget p y (goTo q (tick x (elapsed [] s))) = elapsed [x, y] s := by
      have e1 : tick y (goTo q (tick x s)) = goTo q (elapsed [x, y] s) := by simp [tick, goTo, elapsed, Nat.add_assoc]
      unfold rxBudget
      rw [elapsed_nil, e1]
      dsimp only
      rw [if_neg (by
        have h1 : readMillis (goTo q (elapsed [x, y] s)) = readMillis (elapsed [x, y] s) := rfl
        have h2 : (goTo q (elapsed [x, y] s)).tmp.t0 = s.tmp.t0 := rfl
        have h3 : (goTo q (elapsed [x, y] s)).straps = s.straps := rfl
        rw [h1, h2, h3]; omega)]
      simp [goTo, elapsed, ← hs]
    rw [e, settle_busy (by rw [elapsed_seq, hs]; exact hp), andThen_next]
    exact run_waits hp hq budget later more (elapsed [x, y] s) hs
      (fun ds d h => by
        rw [← elapsed_append [x, y] ds s] at h ⊢
        exact read _ d h) hw

/-- Phase (a) (R146). -/
theorem run_lows (ls : List (Draw × Draw)) (more : List Draw) (s : State) (hs : s.seq = .rxLeaveLow)
    (hw : waits (fun d _ => d.pulled) s.tmp.t0 ls s = true) : run (looks ls ++ more) s = run more (elapsed (looks ls) s) := by
  refine run_waits (p := .rxLeaveLow) (q := .rxLeaveLowBudget) (by simp) (by simp)
    (fun d u h => by unfold primitive; rw [h]) ls more s hs (fun ds d h => ?_) hw
  unfold primitive; rw [elapsed_seq, hs]; simp [rxLeaveLow, lineHigh, show d.pulled = true from h]

/-- Phase (b) (R147). -/
theorem run_highs (ls : List (Draw × Draw)) (more : List Draw) (s : State) (hs : s.seq = .rxWatch) (hd : s.drv = false)
    (hw : waits (fun d _ => !d.pulled) s.tmp.t0 ls s = true) :
    run (looks ls ++ more) s = run more (elapsed (looks ls) s) := by
  refine run_waits (p := .rxWatch) (q := .rxWatchBudget) (by simp) (by simp)
    (fun d u h => by unfold primitive; rw [h]) ls more s hs (fun ds d h => ?_) hw
  have h : d.pulled = false := by simpa using h
  unfold primitive; rw [elapsed_seq, hs]; simp [rxWatch, lineHigh, h, tick, elapsed_drv, hd]

/-- Phase (d) (R149): the clock is looked at until it has reached the target. -/
theorem run_early (i : Nat) (ls : List (Draw × Draw)) (more : List Draw) (s : State) (hs : s.seq = .rxTarget i)
    (hw : waits (fun _ u => decide (u.micros < s.tmp.target)) s.tmp.t0 ls s = true) :
    run (looks ls ++ more) s = run more (elapsed (looks ls) s) := by
  refine run_waits (p := .rxTarget i) (q := .rxTargetBudget i) (by simp) (by simp)
    (fun d u h => by unfold primitive; rw [h]) ls more s hs (fun ds d h => ?_) hw
  have h : (elapsed [d] (elapsed ds s)).micros < s.tmp.target := by simpa using h
  unfold primitive; rw [elapsed_seq, hs]; simp only [rxTarget]
  rw [if_pos (by rw [tick_eq_elapsed]; exact h)]

/-- Phase (d) (R149): a bit before the last, sampled in time. -/
theorem run_bit (i : Nat) (x y : Draw) (more : List Draw) (s : State) (hs : s.seq = .rxTarget i) (hd : s.drv = false) (hi : i < 7)
    (ht : s.tmp.target ≤ s.micros + x.us) :
    run (x :: y :: more) s = run more { elapsed [x, y] s with
      seq := .rxTarget (i + 1)
      tmp := { s.tmp with v := if y.pulled then s.tmp.v else setBit s.tmp.v i, target := s.tmp.target + s.bitp } } := by
  rw [run_settle (by rw [hs]; simp)]
  have p1 : primitive x s = .next (goTo (.rxSample i) (tick x s)) := by
    unfold primitive; rw [hs]; simp only [rxTarget]; rw [if_neg (by simp [tick]; omega)]
  rw [p1, andThen_next, settle_busy (by simp), andThen_next, run_settle (by simp)]
  have p2 : primitive y (goTo (.rxSample i) (tick x s)) = .next { elapsed [x, y] s with
      seq := .rxTarget (i + 1)
      tmp := { s.tmp with v := if y.pulled then s.tmp.v else setBit s.tmp.v i, target := s.tmp.target + s.bitp } } := by
    show rxSample i y _ = _
    unfold rxSample; dsimp only; rw [if_neg (by omega)]
    cases hy : y.pulled <;> simp [lineHigh, tick, goTo, hd, hy, elapsed, Nat.add_assoc]
  rw [p2, andThen_next, settle_busy (by simp), andThen_next]

/-- Phase (d) (R149, R152): the last bit, sampled in time, and what follows it: the effect of receiving the byte. -/
theorem run_lastBit (x y : Draw) (more : List Draw) (s : State) (hs : s.seq = .rxTarget 7) (hd : s.drv = false)
    (ht : s.tmp.target ≤ s.micros + x.us) (hf : s.feed = []) :
    run (x :: y :: more) s = exec (.byte (if y.pulled then s.tmp.v else setBit s.tmp.v 7)) { elapsed [x, y] s with
      seq := .idle, env := more
      tmp := { s.tmp with v := if y.pulled then s.tmp.v else setBit s.tmp.v 7, target := s.tmp.target + s.bitp } } := by
  rw [run_settle (by rw [hs]; simp)]
  have p1 : primitive x s = .next (goTo (.rxSample 7) (tick x s)) := by
    unfold primitive; rw [hs]; simp only [rxTarget]; rw [if_neg (by simp [tick]; omega)]
  rw [p1, andThen_next, settle_busy (by simp), andThen_next, run_settle (by simp)]
  have p2 : primitive y (goTo (.rxSample 7) (tick x s)) = received (if y.pulled then s.tmp.v else setBit s.tmp.v 7)
      { elapsed [x, y] s with
        seq := .idle
        tmp := { s.tmp with v := if y.pulled then s.tmp.v else setBit s.tmp.v 7, target := s.tmp.target + s.bitp } } := by
    show rxSample 7 y _ = _
    unfold rxSample; dsimp only; rw [if_pos (by omega)]
    rw [← received_seq _ .idle]
    cases hy : y.pulled <;> simp [lineHigh, tick, goTo, hd, hy, elapsed, Nat.add_assoc]
  rw [p2]
  generalize (if y.pulled then s.tmp.v else setBit s.tmp.v 7) = b
  generalize hu : ({ elapsed [x, y] s with
                      seq := .idle, tmp := { s.tmp with v := b, target := s.tmp.target + s.bitp } } : State) = u
  have hu' : ({ elapsed [x, y] s with
                seq := .idle, env := more, tmp := { s.tmp with v := b, target := s.tmp.target + s.bitp } } : State) =
      { u with env := more } := by rw [← hu]
  rw [hu']
  have huf : u.feed = [] := by rw [← hu]; exact hf
  show _ = receiveFrame [b] { u with env := more }
  unfold receiveFrame begin
  rw [receiveAll_withEnv]
  have hrec : receiveAll [b] u = andThen (received b u) settle := by
    rw [receiveAll_cons, show ({ u with feed := [] } : State) = u by rw [← huf]]
    cases hr : received b u with
    | next t =>
      simp only [andThen_next]
      unfold settle
      have htf : t.feed = [] := by
        obtain h | h | h := rxState_cases u
        · rw [received_start h] at hr; cases hr; rw [retryTick_eq]; show (stepStart b u).feed = []; unfold stepStart; split <;> exact huf
        · rw [received_length h] at hr; cases hr; rw [retryTick_eq]; show (stepLength b u).feed = []; unfold stepLength; split <;> exact huf
        · rw [received_body h] at hr
          by_cases h : u.rxIdx + 1 = u.rxLen.toNat
          · rw [stepBody_last h] at hr; rw [process_feed hr]; exact huf
          · rw [stepBody_more h] at hr; cases hr; rw [retryTick_eq]; exact huf
      rw [htf]
    | fault r => rfl
    | refused r => rfl
  rw [hrec]
  cases andThen (received b u) settle with
  | next t => exact (run_env more more t).symm
  | fault r => rfl
  | refused r => rfl

end Sys2Proof.Machine
end

