-- ==== Sys2Proof/Laws/PerInstr.lean ====
section
/-! SUPPORT. Statements about every instruction as syntax, one lemma per constructor. Family `TableRow`: what the encoder writes
for an instruction carries the fixed bits of its row of the opcode table. -/
namespace Sys2Proof.Laws.TableRow
open Sys2Proof

/-- The fixed bits of a row of spec/opcode_table.json: the start and stop cell, a frame's TYPE, a command code. -/
inductive Row where
  | cells
  | frame (type : Byte)
  | hostcmd (code : Nat)
  deriving DecidableEq, Repr

/-- The row of each instruction, from the table's `match` and `mask` columns. -/
def rowOf : Instr → Row
  | .byte _ => .cells
  | .hello .. => .frame 0
  | .data .. => .frame 1
  | .ack .. => .frame 2
  | .init _ => .hostcmd 0x0
  | .poll => .hostcmd 0x1
  | .send .. => .hostcmd 0x2
  | .sethandler => .hostcmd 0x3
  | .setq _ => .hostcmd 0x4
  | .setackto _ => .hostcmd 0x5
  | .setmaxretry _ => .hostcmd 0x6
  | .sethelloint _ => .hostcmd 0x7
  | .getid => .hostcmd 0x8
  | .getpeerid => .hostcmd 0x9
  | .getpeerknown => .hostcmd 0xA

/-- An item carries a row's fixed bits: ten cells `0........1` (R100); START and TYPE in their places (R101, R107); the
command code (R110). -/
def carries : Item → Row → Prop
  | .cells c, .cells => ∃ data : List Bool, data.length = 8 ∧ c = false :: (data ++ [true])
  | .frame bytes, .frame type => ∃ length id rest, bytes = 0xA5 :: length :: type :: id :: rest
  | .cmd w, .hostcmd code => w.op.toNat = code
  | _, _ => False

def Statement (i : Instr) : Prop := carries (encode i) (rowOf i)

theorem byte (b : Byte) : Statement (.byte b) := ⟨bitsOfByte b, by simp [bitsOfByte], rfl⟩
theorem hello (length id : Byte) (payload : List Byte) (checksum : Byte) :
    Statement (.hello length id payload checksum) := ⟨length, id, payload ++ [checksum], rfl⟩
theorem data (length id : Byte) (payload : List Byte) (checksum : Byte) :
    Statement (.data length id payload checksum) := ⟨length, id, payload ++ [checksum], rfl⟩
theorem ack (length id : Byte) (payload : List Byte) (checksum : Byte) :
    Statement (.ack length id payload checksum) := ⟨length, id, payload ++ [checksum], rfl⟩
theorem init (hello : Bool) : Statement (.init hello) := rfl
theorem poll : Statement .poll := rfl
theorem send (payload : List Byte) (len : Nat) (ack : Bool) : Statement (.send payload len ack) := rfl
theorem sethandler : Statement .sethandler := rfl
theorem setq (level : Nat) : Statement (.setq level) := rfl
theorem setackto (ms : Nat) : Statement (.setackto ms) := rfl
theorem setmaxretry (n : Nat) : Statement (.setmaxretry n) := rfl
theorem sethelloint (ms : Nat) : Statement (.sethelloint ms) := rfl
theorem getid : Statement .getid := rfl
theorem getpeerid : Statement .getpeerid := rfl
theorem getpeerknown : Statement .getpeerknown := rfl

end Sys2Proof.Laws.TableRow
end

