-- ==== Sys2Proof/Tests/Slice0.lean ====
section
/-! SUPPORT. The model's own tests: named theorems proved by `decide`. Expected values come from 95_test_vectors.md (the vector
is named in each comment) or from the rule named. -/
namespace Sys2Proof.Tests
open Sys2Proof Sys2Proof.Machine

/-! ### Helpers -/

/-- A device with `MAX_PAYLOAD = 16`, level 1, `MAXRETRY = 3`, periodic HELLO off, `RX_TIMEOUT_MS = 5`. -/
def device (level : Level) : Straps :=
  { devId := 0x10, maxPayload := 16, qualityReset := .q1, maxRetryReset := 3, helloIntReset := 0, rxTimeoutMs := 5,
    idSkipZero := false, clockCoupled := false, level := level }

/-- That device after reset, at the wire level and at the byte level. -/
def wireDev : State := State.resetWith (device .wire)
def byteDev : State := State.resetWith (device .byte)

/-- One supplier call of a trace in the form 95_test_vectors.md writes it: `R->1`, `U->1000`, `M->2`, `D(75)`, a pin action. -/
inductive Call where
  | r (high : Bool) | u (now : Nat) | m (now : Nat) | d (n : Nat) | pin
  deriving DecidableEq, Repr

/-- The draws a trace stands for, from the clock values before it. -/
def draws : Nat → Nat → List Call → List Draw
  | _, _, [] => []
  | us, ms, .r high :: rest => { us := 0, ms := 0, pulled := !high } :: draws us ms rest
  | us, ms, .u now :: rest => { us := now - us, ms := 0, pulled := false } :: draws now ms rest
  | us, ms, .m now :: rest => { us := 0, ms := now - ms, pulled := false } :: draws us now rest
  | us, ms, .d n :: rest => { us := 0, ms := 0, pulled := false } :: draws (us + n) ms rest
  | us, ms, .pin :: rest => { us := 0, ms := 0, pulled := false } :: draws us ms rest

/-- A trace that starts with the clocks at zero. -/
def trace (calls : List Call) : List Draw := draws 0 0 calls

/-- What is to hold of the next state, if there is one. -/
def holds (o : Out) (p : State → Bool) : Bool :=
  match o with
  | .next t => p t
  | .fault _ => false
  | .refused _ => false

/-- The refusal, if the outcome is one. -/
def refusal (o : Out) : Option Refusal :=
  match o with
  | .refused r => some r
  | .next _ => none
  | .fault _ => none

/-- A state in the middle of a body: `RXLEN`, the bytes so far. -/
def withBody (len : Byte) (bytes : List Byte) (s : State) : State :=
  { s with rxState := .readingBody, rxLen := len, rxIdx := bytes.length,
           rxBuf := bytes ++ s.rxBuf.drop bytes.length }

/-- The decoder accepts. -/
def accepts (r : Except Reject Instr) (i : Instr) : Bool :=
  match r with
  | .ok j => j == i
  | .error _ => false

/-- The decoder turns away, and why. -/
def rejects (r : Except Reject Instr) (why : Reject) : Bool :=
  match r with
  | .ok _ => false
  | .error e => e == why

/-- Equal draws of a line nobody pulls. -/
def quiet (n us ms : Nat) : List Draw := List.replicate n { us := us, ms := ms, pulled := false }

/-- An outcome that is a next state is one. -/
theorem next_of_holds {o : Out} (h : holds o (fun _ => true) = true) : ∃ t, o = .next t := by
  cases o with
  | next t => exact ⟨t, rfl⟩
  | fault r => cases r
  | refused r => cases h

/-- The state with a pending DATA transmission: id 2, payload `0A 14 1E`, stamped at 0. -/
def pending (s : State) : State :=
  { s with pend := { active := true, needAck := true, type := 1, id := 2, len := 3, retries := 0, lastMs := 0,
                     payload := [0x0A, 0x14, 0x1E] ++ List.replicate 13 0 } }

/-! ### Well-formedness: one ill-formed term for each check -/

/-- LENGTH below 3 (R102). -/
theorem test_wf_length_low : (Instr.data 2 0 [] 0).wellFormed 16 = false := by decide +kernel
/-- LENGTH above `MAX_PAYLOAD + 3` (R102). -/
theorem test_wf_length_high :
    (Instr.hello 4 1 [0x10] 0x3D).wellFormed 0 = false ∧ (Instr.hello 4 1 [0x10] 0x3D).wellFormed 1 = true := by
  decide +kernel
/-- A payload of another size than LENGTH announces (R102). -/
theorem test_wf_size : (Instr.data 6 2 [0x0A, 0x14] 0x66).wellFormed 16 = false := by decide +kernel
/-- A wrong checksum (R106). -/
theorem test_wf_checksum :
    (Instr.ack 3 1 [] 0x91).wellFormed 16 = false ∧ (Instr.ack 3 1 [] 0x90).wellFormed 16 = true := by decide +kernel
/-- Fewer bytes than `min(len, MAX_PAYLOAD)` (U7). -/
theorem test_wf_send :
    (Instr.send [1] 2 false).wellFormed 16 = false ∧ (Instr.send [1] 2 false).wellFormed 1 = true := by decide +kernel
/-- A quality level outside 1..4 (R236). -/
theorem test_wf_setq :
    (Instr.setq 0).wellFormed 16 = false ∧ (Instr.setq 5).wellFormed 16 = false ∧
      (Instr.setq 4).wellFormed 16 = true := by decide +kernel

/-! ### Encodings, written out from R100, R101, R107, R110 -/

/-- BV12: `A5` is the cells `LHLHLLHLHH`. -/
theorem test_decode_byte :
    accepts (decode (.cells [false, true, false, true, false, false, true, false, true, true])) (.byte 0xA5) = true := by
  decide +kernel
/-- BV12, BV13, BV15, sent. -/
theorem test_encode_byte :
    cellsOfByte 0xA5 = [false, true, false, true, false, false, true, false, true, true] ∧
    cellsOfByte 0x03 = [false, true, true, false, false, false, false, false, false, true] ∧
    cellsOfByte 0x80 = [false, false, false, false, false, false, false, false, true, true] := by decide +kernel
/-- R112: three frames. -/
theorem test_decode_frames :
    accepts (decode (.frame [0xA5, 0x04, 0x00, 0x01, 0x10, 0x3D])) (.hello 4 1 [0x10] 0x3D) = true ∧
    accepts (decode (.frame [0xA5, 0x06, 0x01, 0x02, 0x0A, 0x14, 0x1E, 0x66]))
      (.data 6 2 [0x0A, 0x14, 0x1E] 0x66) = true ∧
    accepts (decode (.frame [0xA5, 0x03, 0x02, 0x01, 0x90])) (.ack 3 1 [] 0x90) = true := by decide +kernel
/-- R110: the eleven codes. -/
theorem test_decode_commands :
    ([.init false, .poll, .send [] 0 false, .sethandler, .setq 0, .setackto 0, .setmaxretry 0, .sethelloint 0,
      .getid, .getpeerid, .getpeerknown] : List Instr).zipIdx.all (fun (i, n) =>
        accepts (decode (.cmd ⟨BitVec.ofNat 4 n, false, 0, []⟩)) i) = true := by decide +kernel
/-- R111, R240: the five reserved codes. -/
theorem test_decode_reserved_codes :
    ([0b1011, 0b1100, 0b1101, 0b1110, 0b1111] : List (BitVec 4)).all (fun op =>
      rejects (decode (.cmd ⟨op, false, 0, []⟩)) .reservedCode) = true := by decide +kernel
/-- A low stop cell, a high start cell, nine cells (R100). -/
theorem test_decode_no_byte :
    rejects (decode (.cells (List.replicate 10 false))) .notAByte = true ∧
    rejects (decode (.cells (List.replicate 10 true))) .notAByte = true ∧
    rejects (decode (.cells (false :: List.replicate 8 true))) .notAByte = true := by decide +kernel
/-- No START; TYPE 3; one byte too few, one too many (R101 to R103). -/
theorem test_decode_no_frame :
    rejects (decode (.frame [0xA4, 0x03, 0x02, 0x01, 0x90])) .noStart = true ∧
    rejects (decode (.frame [0xA5, 0x04, 0x03, 0x09, 0x55, 0xF4])) .reservedType = true ∧
    rejects (decode (.frame [0xA5, 0x04, 0x00, 0x01, 0x10])) .wrongSize = true ∧
    rejects (decode (.frame [0xA5, 0x03, 0x02, 0x01, 0x90, 0x00])) .wrongSize = true := by decide +kernel
/-- The table's words: a code, the cells of byte 0, a header word (R107). -/
theorem test_table_words :
    decodeTableWord 8 0x4 = some (.setq 0) ∧ decodeTableWord 8 0xB = none ∧
    decodeTableWord 16 0b0000000001 = some (.byte 0) ∧ decodeTableWord 16 0b0101001011 = some (.byte 0xA5) ∧
    decodeTableWord 32 0xA5000000 = some (.hello 0 0 [] 0) ∧
    decodeTableWord 32 0xA5050107 = some (.data 5 7 [0, 0] 0) ∧
    decodeTableWord 32 0xA5030201 = some (.ack 3 1 [] 0) := by decide +kernel
/-- A table word is what the next step runs: SETMAXRETRY with operand 0 (HV9). -/
theorem test_fetch_word :
    holds (step (wireDev.withFetchWord 8 0x6)) (fun t => t.maxRetry == 0 && t.port == []) = true := by decide +kernel

/-! ### Checksum -/

/-- CK2 to CK6, CK9, CK11, CK12. -/
theorem test_crc_update :
    crcUpdate 0x00 0x01 = 0x07 ∧ crcUpdate 0x00 0x80 = 0x89 ∧ crcUpdate 0x00 0xFF = 0xF3 ∧
    crcUpdate 0x00 0xA5 = 0x72 ∧ crcUpdate 0xFF 0xFF = 0x00 ∧ crcUpdate 0x15 0x01 = 0x6C ∧
    crcUpdate 0x09 0x02 = 0x31 := by decide +kernel
/-- CK14 to CK17, CK21 to CK24. -/
theorem test_crc_fold :
    crcFold [0x00, 0x00, 0x01] = 0x07 ∧ crcFold [0x01, 0x02] = 0x1B ∧ crcFold [0x02, 0x01] = 0x2D ∧
    crcFold [0x03, 0x02, 0x01] = 0x90 ∧ crcFrame 0x06 0x01 0x02 [0x0A, 0x14, 0x1E] = 0x66 ∧
    crcFrame 0x04 0x00 0x01 [0x10] = 0x3D ∧ crcFold [0x03, 0x02, 0x01, 0x90] = 0x00 ∧
    crcFold [0x31, 0x32, 0x33, 0x34, 0x35, 0x36, 0x37, 0x38, 0x39] = 0xF4 := by decide +kernel

/-! ### Values -/

/-- BV1 to BV8 and R22: the clamp, and the floors. -/
theorem test_bit_period :
    [0, 299, 300, 301, 1999, 2000, 2001, 65535].map (fun p => (setBitp p wireDev).bitp)
      = [300, 300, 300, 301, 1999, 2000, 2000, 2000] ∧
    [300, 301, 1999].map halfOf = [150, 150, 999] ∧ [300, 301, 1999].map quarterOf = [75, 75, 499] ∧
    [300, 301, 1999].map idleOf = [900, 903, 5997] := by decide +kernel
/-- R23, C1: 40 up to 500, 60 up to 800, 80 above. -/
theorem test_ackto : [300, 500, 501, 800, 801, 1200, 2000].map ackToOf = [40, 40, 60, 60, 80, 80, 80] := by
  decide +kernel
/-- FV1, FV5, FV8 (clamped to 16), FV11. -/
theorem test_encode_frame :
    encodeFrame (device .wire) 1 2 [0x0A, 0x14, 0x1E] 3 = [0xA5, 0x06, 0x01, 0x02, 0x0A, 0x14, 0x1E, 0x66] ∧
    encodeFrame (device .wire) 1 1 [] 0 = [0xA5, 0x03, 0x01, 0x01, 0xAF] ∧
    encodeFrame (device .wire) 1 0xA5 [0xA5, 0xA5] 2 = [0xA5, 0x05, 0x01, 0xA5, 0xA5, 0xA5, 0x58] ∧
    encodeFrame (device .wire) 1 3 ((List.range 20).map fun k => BitVec.ofNat 8 (0x30 + k)) 20
      = [0xA5, 0x13, 0x01, 0x03, 0x30, 0x31, 0x32, 0x33, 0x34, 0x35, 0x36, 0x37, 0x38, 0x39, 0x3A, 0x3B, 0x3C,
         0x3D, 0x3E, 0x3F, 0x0F] := by decide +kernel
/-- EV20 to EV24. -/
theorem test_new_id :
    [1, 254, 255, 0].map (bumpId false) = [2, 255, 0, 1] ∧ bumpId true 255 = 1 ∧ bumpId true 254 = 255 := by
  decide +kernel

/-! ### Engine -/

/-- P5: the whole wire-level trace receives `A5`; END state `RXSTATE = AwaitingLength`. -/
def p5 : List Draw := trace
  [.m 0, .r true, .r true, .m 0, .r true, .m 0, .r false, .u 1000, .d 75, .r false,
   .u 1250, .m 1, .u 1455, .r true, .u 1550, .m 1, .u 1755, .r false, .u 1850, .m 2, .u 2055, .r true,
   .u 2150, .m 2, .u 2355, .r false, .u 2450, .m 2, .u 2655, .r false, .u 2750, .m 2, .u 2955, .r true,
   .u 3050, .m 3, .u 3255, .r false, .u 3350, .m 3, .u 3555, .r true]
theorem test_poll_receives_p5 :
    holds (exec .poll { wireDev with env := p5 }) (fun t =>
      t.tmp.v == 0xA5 && t.rxState == .awaitingLength && t.seq.isIdle && t.env == [] && t.micros == 3555) = true := by
  decide +kernel

def bv33 : List Call :=
  [.m 10, .r false, .m 10, .r false, .m 11, .r true, .r true, .m 11, .r false, .u 5000, .d 75, .r true,
   .r true, .m 12, .r true, .m 15, .r true, .m 16]
/-- BV33: a glitch, then the budget runs out. -/
theorem test_poll_glitch_then_timeout :
    holds (exec .poll { wireDev with millis := 10, env := draws 0 10 bv33 }) (fun t =>
      t.rxState == .awaitingStart && t.seq.isIdle && t.env == [] && t.tmp.edge == 5000) = true := by
  decide +kernel

/-- EV30 at the byte level. -/
theorem test_send_fills_slot :
    holds (exec (.send [0x0A, 0x14, 0x1E] 3 true) { byteDev with env := [{ us := 0, ms := 500, pulled := false }] })
      (fun t => t.txBytes == [0xA5, 0x06, 0x01, 0x01, 0x0A, 0x14, 0x1E, 0x5C] && t.nextId == 2 &&
        t.responses == [.byte 1] && t.pend.active && t.pend.needAck && t.pend.type == 1 && t.pend.id == 1 &&
        t.pend.len == 3 && t.pend.payload.take 3 == [0x0A, 0x14, 0x1E] && t.pend.lastMs == 500) = true := by
  decide +kernel

/-- BV36, BV37: late samples are taken at once, and no budget is tested when no wait loop waits. -/
theorem test_poll_late_receiver :
    holds (exec .poll { wireDev with
        straps := { device .wire with rxTimeoutMs := 0 }
        env := trace ([.m 7, .r true, .r false, .u 100, .d 75, .r false] ++
          (List.replicate 8 [Call.u 9999, Call.r true]).flatten) }) (fun t =>
      t.tmp.v == 0xFF && t.seq.isIdle && t.env == []) = true := by decide +kernel

/-- BV20, on the byte that follows it: the idle wait starts over after a low read and ends at 900 (BV21). -/
theorem test_idle_wait :
    let s : State := { wireDev with seq := .idleEnter ⟨0x03, [], .hello⟩ }
    let before := trace [.u 10000, .r true, .u 10005, .r false, .u 10302, .r true, .u 10400, .r true, .u 11201]
    holds (run before s) (fun t => t.seq == .idleRead ⟨0x03, [], .hello⟩ && t.tmp.hs == 10302 && t.txCells == []) = true ∧
    holds (run (before ++ draws 11201 0 [.r true, .u 11202, .pin]) s)
      (fun t => t.txCells == [false] && t.drv) = true := by decide +kernel

/-- FV15a to FV17: BYTE through the reassembly states. -/
theorem test_byte_reassembly :
    holds (exec (.byte 0xA5) wireDev) (fun t => t.rxState == .awaitingLength) = true ∧
    holds (exec (.byte 0x13) { wireDev with rxState := .awaitingLength })
      (fun t => t.rxState == .readingBody && t.rxLen == 19) = true ∧
    holds (exec (.byte 0x14) { wireDev with rxState := .awaitingLength }) (fun t => t.rxState == .awaitingStart) = true ∧
    holds (exec (.byte 0x02) (withBody 3 [] wireDev)) (fun t => t.rxIdx == 1 && rxByte t 0 == 0x02) = true := by
  decide +kernel

/-- EV1: HELLO at the byte level, the acknowledgment of `A5 03 02 01 90`, the event. -/
theorem test_hello :
    holds (exec (.hello 4 1 [0x10] 0x3D) { byteDev with handlerEn := true }) (fun t =>
      t.peerKnown && t.peerId == 0x10 && t.txBytes == [0xA5, 0x03, 0x02, 0x01, 0x90] &&
      t.events == [⟨1, 0, [0x10], 1⟩] && t.rxState == .awaitingStart && t.nextId == 1) = true := by decide +kernel
/-- EV4: an empty HELLO records no peer. -/
theorem test_hello_empty :
    holds (exec (.hello 3 7 [] 0xA8) { byteDev with handlerEn := true }) (fun t =>
      !t.peerKnown && t.txBytes == [0xA5, 0x03, 0x02, 0x07, 0x82] && t.events == [⟨7, 0, [], 0⟩]) = true := by
  decide +kernel
/-- EV6, then EV7: a fresh DATA frame, then the same id again. -/
theorem test_data_then_duplicate :
    holds (andThen (exec (.data 6 2 [0x0A, 0x14, 0x1E] 0x66) { byteDev with handlerEn := true })
        (exec (.data 6 2 [0x0A, 0x14, 0x1E] 0x66))) (fun t =>
      t.lastValid && t.lastId == 2 && t.events == [⟨2, 1, [0x0A, 0x14, 0x1E], 3⟩] &&
      t.txBytes == [0xA5, 0x03, 0x02, 0x02, 0x99, 0xA5, 0x03, 0x02, 0x02, 0x99]) = true := by decide +kernel
/-- EV16: a bad checksum; neither acknowledged nor delivered. -/
theorem test_data_corrupt :
    holds (exec (.data 6 2 [0x0A, 0x14, 0x1E] 0x67) { byteDev with handlerEn := true }) (fun t =>
      t.txBytes == [] && t.events == [] && !t.lastValid && t.rxState == .awaitingStart) = true := by decide +kernel
/-- EV11 and EV12, each POLL's clock read before the deadline. -/
theorem test_ack_matches_pending :
    holds (exec (.ack 3 2 [] 0x99) { pending byteDev with env := quiet 4 0 10 }) (fun t =>
      !t.pend.active && t.pend.id == 2 && t.txBytes == [] && t.events == []) = true ∧
    holds (exec (.ack 3 1 [] 0x90) { pending byteDev with env := quiet 5 0 1 }) (fun t => t.pend.active) = true := by
  decide +kernel
/-- EV18: a validated body of TYPE 3 is refused (R214, U2). -/
theorem test_reserved_type :
    refusal (exec (.byte 0xF4) (withBody 4 [0x03, 0x09, 0x55] byteDev)) = some .reservedFrameType := by decide +kernel

/-- EV18 with a wrong checksum: dropped (R197). R175: bytes before START are skipped inside one item. -/
theorem test_stray_frames :
    holds (step { byteDev with handlerEn := true, port := [.frame [0xA5, 0x04, 0x03, 0x09, 0x55, 0xF5]] }) (fun t =>
      t.events == [] && t.txBytes == [] && t.rxState == .awaitingStart) = true ∧
    holds (step { byteDev with port := [.frame [0x00, 0xA4, 0xA5, 0x04]] }) (fun t =>
      t.rxState == .readingBody && t.rxLen == 4) = true := by decide +kernel
/-- R147, R152, R77: a low stop cell after a high bit 7 is a start edge; a row that is high all along has none; a start edge
alone is a byte of ones. -/
theorem test_bytes_heard :
    bytesHeard [false, true, false, true, false, false, true, false, true, false] = [0xA5, 0xFF] ∧
    bytesHeard [false, true, true, false, false, false, false, false, false, false] = [0x03] ∧
    bytesHeard (List.replicate 12 true) = [] ∧ bytesHeard [true, false] = [0xFF] := by decide +kernel

/-- EV33 and EV35: an empty payload, tracked; and id 255 wraps to 0. -/
theorem test_send_empty :
    holds (exec (.send [] 0 true) { byteDev with env := quiet 1 0 500 }) (fun t =>
      t.txBytes == [0xA5, 0x03, 0x01, 0x01, 0xAF] && t.pend.active && t.pend.len == 0) = true ∧
    holds (exec (.send [] 0 false) { byteDev with nextId := 255 }) (fun t =>
      t.txBytes == [0xA5, 0x03, 0x01, 0xFF, 0x5B] && t.nextId == 0 && t.responses == [.byte 255]) = true := by
  decide +kernel
/-- INIT 1 at the wire level (R211): `A5 04 00 01 10 3D` in 6 * 23 supplier calls, then the time stamp. -/
theorem test_init_wire :
    holds (exec (.init true) { wireDev with env := quiet 200 1000 1 }) (fun t =>
      t.txBytes == [0xA5, 0x04, 0x00, 0x01, 0x10, 0x3D] && t.nextId == 2 && t.seq.isIdle && !t.drv &&
      t.lastHello == 139) = true := by decide +kernel
/-- INIT 0 (R211). -/
theorem test_init_zero : holds (exec (.init false) byteDev) (fun t => t == byteDev) = true := by decide +kernel

/-- EV41, EV42, EV46: a POLL at the deadline, one past it, and with the retries used up. -/
theorem test_retry_tick :
    holds (exec .poll { pending byteDev with env := quiet 1 0 40 }) (fun t => t.pend.retries == 0 && t.txBytes == []) = true ∧
    holds (exec .poll { pending byteDev with env := quiet 2 0 41 }) (fun t =>
      t.pend.retries == 1 && t.pend.lastMs == 82 &&
      t.txBytes == [0xA5, 0x06, 0x01, 0x02, 0x0A, 0x14, 0x1E, 0x66]) = true ∧
    holds (exec .poll { pending byteDev with maxRetry := 0, env := quiet 2 0 41 }) (fun t =>
      !t.pend.active && t.txBytes == []) = true := by decide +kernel
/-- EV51, EV52: a HELLO is due at 6000, not at 5999. -/
theorem test_hello_tick :
    holds (exec .poll { byteDev with helloInt := 1000, lastHello := 5000, env := quiet 1 0 5999 }) (fun t =>
      t.txBytes == [] && t.lastHello == 5000) = true ∧
    holds (exec .poll { byteDev with helloInt := 1000, lastHello := 5000, env := quiet 2 0 6000 }) (fun t =>
      t.txBytes == [0xA5, 0x04, 0x00, 0x01, 0x10, 0x3D] && t.lastHello == 12000 && t.nextId == 2) = true := by
  decide +kernel

/-! ### Host interface -/

/-- HV1 to HV4. -/
theorem test_setq :
    [1, 2, 3, 4].map (fun l => holds (exec (.setq l) wireDev) fun t =>
      (t.bitp, t.ackTo) == ([(300, 40), (500, 40), (800, 60), (1200, 80)] : List (Nat × Nat)).getD (l - 1) (0, 0))
      = [true, true, true, true] := by decide +kernel
/-- HV5. -/
theorem test_setq_refused :
    refusal (exec (.setq 0) wireDev) = some .qualityOutOfRange ∧
    refusal (exec (.setq 5) wireDev) = some .qualityOutOfRange := by decide +kernel
/-- HV7: SETQ takes the override of SETACKTO away. -/
theorem test_setackto_then_setq :
    holds (andThen (exec (.setackto 100) wireDev) (exec (.setq 3))) (fun t => t.bitp == 800 && t.ackTo == 60) = true := by
  decide +kernel
/-- HV8: the override of SETACKTO stays until the next SETQ. -/
theorem test_setackto : holds (exec (.setackto 25) wireDev) (fun t => t.bitp == 300 && t.ackTo == 25) = true := by
  decide +kernel
/-- HV9. -/
theorem test_setmaxretry : holds (exec (.setmaxretry 0) wireDev) (fun t => t.maxRetry == 0) = true := by decide +kernel
/-- HV10. -/
theorem test_sethelloint :
    holds (exec (.sethelloint 0) { wireDev with helloInt := 9, lastHello := 7 }) (fun t =>
      t.helloInt == 0 && t.lastHello == 7) = true := by decide +kernel
/-- HV11. -/
theorem test_sethandler : holds (exec .sethandler wireDev) (fun t => t.handlerEn) = true := by decide +kernel
/-- HV13. -/
theorem test_getid : holds (exec .getid wireDev) (fun t => t.responses == [.byte 0x10]) = true := by decide +kernel
/-- HV14 and HV16. -/
theorem test_getpeerknown :
    holds (exec .getpeerknown wireDev) (fun t => t.responses == [.bit false]) = true ∧
    holds (exec .getpeerknown { wireDev with peerKnown := true }) (fun t => t.responses == [.bit true]) = true := by
  decide +kernel
/-- HV16. HV15 expects no value: GETPEERID before any HELLO completes, with one response. -/
theorem test_getpeerid :
    holds (exec .getpeerid { wireDev with peerKnown := true, peerId := 0x10 }) (fun t => t.responses == [.byte 0x10]) = true ∧
    holds (exec .getpeerid wireDev) (fun t => t.responses.length == 1) = true := by decide +kernel

/-! ### The whole machine -/

/-- A busy block with no listed draw takes a step all the same, on a free draw. -/
theorem test_busy_step_completes :
    holds (step { wireDev with seq := .rxEnter }) (fun t => t.seq == .rxLeaveLow && t.freeCtr == 1) = true := by
  decide +kernel
/-- P2, steps 2 to 8, over a link of two devices at the byte level: A's INIT 1 is on B's channel. -/
theorem test_link_carries_hello :
    let a : State := { byteDev with port := [.cmd ⟨0b0000, true, 0, []⟩], env := quiet 1 0 100 }
    (match (Link.mk a byteDev).stepNear with
     | .next l => l.far.chanIn == [0xA5, 0x04, 0x00, 0x01, 0x10, 0x3D] && l.near.lastHello == 100
     | .fault _ => false
     | .refused _ => false) = true := by decide +kernel

/-! ### Witnesses: for each statement with hypotheses, concrete states and operands that meet all of them -/

/-- An idle byte-level device in the middle of nothing, with a registered handler. -/
def listener : State := { byteDev with handlerEn := true }
/-- The wire-level device with draws of a free line, more than a frame needs. -/
def speaker : State := { wireDev with env := quiet 200 1000 1 }
/-- A block inside a wire-level POLL. -/
def polling : State := { wireDev with seq := .rxWatchBudget, env := quiet 1 0 1 }

theorem witness_DecodeInvertsEncode :
    16 ≤ 252 ∧ ([.byte 0xFF, .hello 3 7 [] 0xA8, .data 6 2 [0x0A, 0x14, 0x1E] 0x66, .ack 3 1 [] 0x90, .init true, .poll,
      .send [] 0 true, .sethandler, .setq 1, .setq 4, .setackto 0, .setmaxretry 0, .sethelloint 0, .getid, .getpeerid,
      .getpeerknown] : List Instr).all (fun i => i.wellFormed 16) = true := by decide +kernel

theorem witness_EncodeInvertsDecode :
    decode (.cells [false, true, false, true, false, false, true, false, true, true]) = .ok (.byte 0xA5) ∧
    decode (.frame [0xA5, 0x03, 0x02, 0x01, 0x90]) = .ok (.ack 0x03 0x01 [] 0x90) ∧
    decode (.cmd ⟨0b0001, true, 7, [1]⟩) = .ok .poll := ⟨rfl, rfl, rfl⟩

theorem witness_ReservedCodesAreRefused :
    (∃ (s : State) (w : CmdWord) (rest : List Item), ready s = true ∧ s.port = .cmd w :: rest ∧ w.op.toNat = 0b1011) ∧
    (∃ (s : State) (w : CmdWord) (rest : List Item), ready s = true ∧ s.port = .cmd w :: rest ∧ w.op.toNat = 0b1111) :=
  ⟨⟨{ wireDev with port := [.cmd ⟨11, false, 0, []⟩] }, _, _, rfl, rfl, rfl⟩,
   ⟨{ wireDev with port := [.cmd ⟨15, true, 1, [0]⟩] }, _, _, rfl, rfl, rfl⟩⟩

theorem witness_StepRunsTheDecodedInstruction :
    (∃ (s : State) (item : Item) (rest : List Item) (i : Instr),
      ready s = true ∧ s.port = item :: rest ∧ decode item = .ok i) ∧ (∃ s : State, ready s = true ∧ s.port = []) :=
  ⟨⟨{ wireDev with port := [cmdItem 8] }, _, _, .getid, rfl, rfl, rfl⟩, ⟨wireDev, rfl, rfl⟩⟩

/-- A frame item of TYPE 3, and a row of levels whose stop cell is low. -/
theorem witness_WireItemsAreReceivedWhateverTheyHold :
    (∃ (s : State) (bytes : List Byte) (rest : List Item) (why : Reject),
      ready s = true ∧ s.port = .frame bytes :: rest ∧ decode (.frame bytes) = .error why) ∧
    (∃ (s : State) (cells : List Bool) (rest : List Item) (why : Reject),
      ready s = true ∧ s.port = .cells cells :: rest ∧ decode (.cells cells) = .error why) :=
  ⟨⟨{ wireDev with port := [.frame [0xA5, 0x03, 0x03, 0x01, 0x90]] }, _, _, .reservedType, rfl, rfl, rfl⟩,
   ⟨{ wireDev with port := [.cells (false :: (bitsOfByte 3 ++ [false]))] }, _, _, .notAByte, rfl, rfl, rfl⟩⟩

theorem witness_BusyBlockAcceptsNothing : ∃ s t : State, ready s = false ∧ step s = .next t := by
  obtain ⟨t, h⟩ := next_of_holds (o := step polling) (by decide +kernel)
  exact ⟨polling, t, rfl, h⟩

theorem witness_OneFlippedBitChangesChecksum :
    ∃ (bytes : List Byte) (i k : Nat), i < bytes.length ∧ k < 8 ∧ i + 1 = bytes.length ∧ k = 7 :=
  ⟨[3, 2, 1], 2, 7, by decide⟩

theorem witness_BitPeriodIsClamped :
    (∃ p : Nat, p ≤ 300 ∧ p = 300) ∧ (∃ p : Nat, 2000 ≤ p ∧ p = 2000) ∧ (∃ p : Nat, 300 ≤ p ∧ p ≤ 2000 ∧ p = 301) :=
  ⟨⟨300, by decide⟩, ⟨2000, by decide⟩, ⟨301, by decide⟩⟩

theorem witness_ByteGoesOutAsTenCells :
    ∃ (b next : Byte) (more : List Byte) (after : After) (ds : List Draw) (s : State),
      s.seq = .idleEnter ⟨b, next :: more, after⟩ ∧ s.drv = false ∧ ds.length = 23 ∧ lineFree (3 * s.bitp) ds = true :=
  ⟨0xA5, 0x03, [], .autoAck, quiet 23 900 1, { wireDev with seq := .idleEnter ⟨0xA5, [0x03], .autoAck⟩ }, by
    decide +kernel⟩

theorem witness_StuckLineSendsNothing :
    ∃ (tx : Tx) (ds : List Draw) (a b c : State), a.seq = .idleEnter tx ∧ b.seq = .idleRead tx ∧ c.seq = .idleLow tx ∧
      ds.length = 3 ∧ lineStuck ds = true :=
  ⟨⟨0, [], .hello⟩, List.replicate 3 ⟨1, 1, true⟩, { wireDev with seq := .idleEnter ⟨0, [], .hello⟩ },
   { wireDev with seq := .idleRead ⟨0, [], .hello⟩ }, { wireDev with seq := .idleLow ⟨0, [], .hello⟩ }, by decide +kernel⟩

/-- Bit 7, its target at `edge + BITP + HALF + 7 * BITP = 1000 + 300 + 150 + 2100` (P5), reached exactly. -/
theorem witness_SamplesAreTakenAtTheirTargets :
    ∃ (d : Draw) (s t : State), s.seq = .rxTarget 7 ∧
      (∀ i, s.seq = .rxTarget i ∨ s.seq = .rxTargetBudget i ∨ s.seq = .rxSample i →
        s.tmp.target = s.tmp.edge + s.bitp + s.bitp / 2 + i * s.bitp) ∧
      primitive d s = .next t ∧ t.seq = .rxSample 7 ∧ t.micros = 3550 := by
  refine ⟨⟨5, 0, false⟩, { wireDev with seq := .rxTarget 7, micros := 3545, tmp := { wireDev.tmp with edge := 1000, target := 3550 } },
    _, rfl, ?_, rfl, rfl, rfl⟩
  rintro i (h | h | h) <;> cases h
  rfl

theorem witness_GlitchLeavesNoTrace :
    ∃ (d0 d3 : Draw) (s : State), s.seq = .rxWatch ∧ s.drv = false ∧ d0.pulled = true ∧ d3.pulled = false :=
  ⟨⟨0, 0, true⟩, ⟨0, 0, false⟩, { wireDev with seq := .rxWatch }, rfl, rfl, rfl, rfl⟩

/-- The supplier calls of program P5 bit by bit: a look at the clock that is early, with its budget test, one that is not, the
level. The first look of all is 250 after the edge, the others 95 and 205 microseconds apart in turn. -/
def p5Bits : List BitLooks :=
  [⟨[(⟨175, 0, false⟩, ⟨0, 1, false⟩)], ⟨205, 0, false⟩, ⟨0, 0, false⟩⟩,
   ⟨[(⟨95, 0, false⟩, ⟨0, 0, false⟩)], ⟨205, 0, false⟩, ⟨0, 0, true⟩⟩,
   ⟨[(⟨95, 0, false⟩, ⟨0, 1, false⟩)], ⟨205, 0, false⟩, ⟨0, 0, false⟩⟩,
   ⟨[(⟨95, 0, false⟩, ⟨0, 0, false⟩)], ⟨205, 0, false⟩, ⟨0, 0, true⟩⟩,
   ⟨[(⟨95, 0, false⟩, ⟨0, 0, false⟩)], ⟨205, 0, false⟩, ⟨0, 0, true⟩⟩,
   ⟨[(⟨95, 0, false⟩, ⟨0, 0, false⟩)], ⟨205, 0, false⟩, ⟨0, 0, false⟩⟩,
   ⟨[(⟨95, 0, false⟩, ⟨0, 1, false⟩)], ⟨205, 0, false⟩, ⟨0, 0, true⟩⟩,
   ⟨[(⟨95, 0, false⟩, ⟨0, 0, false⟩)], ⟨205, 0, false⟩, ⟨0, 0, false⟩⟩]

/-- The premises of the statement, as one check. -/
def meetsCleanByte (b : Byte) (d0 d1 d2 d3 d4 d5 : Draw) (lows highs : List (Draw × Draw)) (bits : List BitLooks)
    (s : State) : Bool :=
  let t0 := readMillis (elapsed [d0] s)
  let toEdge := d0 :: looks lows ++ d1 :: looks highs ++ [d2, d3]
  s.straps.level == .wire && s.seq.isIdle && s.feed == [] && !s.drv &&
    waits (fun d _ => d.pulled) t0 lows (elapsed [d0] s) && !d1.pulled &&
    waits (fun d _ => !d.pulled) t0 highs (elapsed (d0 :: looks lows ++ [d1]) s) && d2.pulled && d5.pulled &&
    samples b (elapsed toEdge s).micros t0 0 bits
      (elapsed (toEdge ++ [d4, d5]) { s with micros := s.micros + s.bitp / 4 }) &&
    s.env == toEdge ++ [d4, d5] ++ bits.flatMap BitLooks.draws

/-- Program P5, whole: nominal cells, waited for with budget tests, a sample a bit period. -/
theorem witness_PollReceivesTheByteOnTheWire :
    meetsCleanByte 0xA5 ⟨0, 0, false⟩ ⟨0, 0, false⟩ ⟨0, 0, true⟩ ⟨1000, 0, false⟩ ⟨0, 0, false⟩ ⟨0, 0, true⟩ []
      [(⟨0, 0, false⟩, ⟨0, 0, false⟩), (⟨0, 0, false⟩, ⟨0, 0, false⟩)] p5Bits { wireDev with env := p5 } = true := by
  decide +kernel

/-- The same with a low look before and the last budget tests at the bound of 5 ms; a late receiver (BV36) that samples every
bit at its first look; and the byte 0. -/
theorem witness_PollReceivesAtTheBounds :
    let low : List (Draw × Draw) := [(⟨0, 0, true⟩, ⟨1000, 1, true⟩)]
    let high : List (Draw × Draw) := [(⟨0, 0, false⟩, ⟨2000, 4, false⟩)]
    let late : List BitLooks := List.replicate 8 ⟨[], ⟨9999, 9, false⟩, ⟨0, 0, true⟩⟩
    meetsCleanByte 0 ⟨7, 7, false⟩ ⟨0, 0, false⟩ ⟨0, 0, true⟩ ⟨1, 0, false⟩ ⟨0, 0, false⟩ ⟨0, 0, true⟩ low high late
      { wireDev with env := ⟨7, 7, false⟩ :: looks low ++ ⟨0, 0, false⟩ :: looks high ++
          [⟨0, 0, true⟩, ⟨1, 0, false⟩, ⟨0, 0, false⟩, ⟨0, 0, true⟩] ++ late.flatMap BitLooks.draws } = true := by
  decide +kernel

theorem witness_PollOnQuietLineChangesNothing :
    ∃ s : State, s.straps.level = .wire ∧ s.seq = .idle ∧ s.feed = [] ∧ s.drv = false ∧ noDeadline s = true ∧
      2 * s.straps.rxTimeoutMs + 5 = s.env.length ∧ (∀ d ∈ s.env, d.pulled = false ∧ 1 ≤ d.ms ∧ 1000 ≤ d.us) :=
  ⟨{ wireDev with env := quiet 15 1000 1 }, by decide +kernel⟩

/-- `len` above, at and below `MAX_PAYLOAD`, the payload just long enough. -/
theorem witness_EncodedFramesAreWellFormed :
    ∃ (p : Straps) (payload : List Byte), [0, 16, 17, 300].all (fun len => decide (min len p.maxPayload.val ≤ payload.length)) = true ∧
      payload.length = 16 :=
  ⟨device .wire, List.replicate 16 0, by decide +kernel⟩

/-- Each clause at its boundary: LENGTH 3 and 19 in range, 2 and 20 out of it; the last but one body byte. -/
theorem witness_ByteMovesReassembly :
    ∃ a b c : State, (∀ s ∈ [a, b, c], s.seq = .idle ∧ s.feed = [] ∧ noDeadline s = true) ∧
      a.rxState = .awaitingStart ∧ (0xA4 : Byte) ≠ 0xA5 ∧
      b.rxState = .awaitingLength ∧ 3 ≤ (3 : Byte).toNat ∧ (19 : Byte).toNat ≤ b.straps.maxPayload.val + 3 ∧
      (2 : Byte).toNat < 3 ∧ b.straps.maxPayload.val + 3 < (20 : Byte).toNat ∧
      c.rxState = .readingBody ∧ c.rxIdx + 2 = c.rxLen.toNat ∧ c.rxIdx + 1 ≠ c.rxLen.toNat :=
  ⟨byteDev, { byteDev with rxState := .awaitingLength }, withBody 3 [2] byteDev, by decide +kernel⟩

/-- Every clause of the premise-free statement, LENGTH at 2, 3, 19 and 20. -/
theorem witness_ReassemblyStepsAsStated :
    ∃ a b : State, a.rxState = .awaitingStart ∧ b.rxState = .awaitingLength ∧ (2 : Byte).toNat < 3 ∧
      b.straps.maxPayload.val + 3 < (20 : Byte).toNat ∧ 3 ≤ (3 : Byte).toNat ∧
      (19 : Byte).toNat ≤ b.straps.maxPayload.val + 3 :=
  ⟨byteDev, { byteDev with rxState := .awaitingLength }, by decide +kernel⟩

/-- EV15. -/
theorem witness_BadChecksumStopsProcessing :
    ∃ s : State, crcFold (s.rxLen :: s.rxBuf.take (s.rxLen.toNat - 1)) ≠ s.rxBuf.getD (s.rxLen.toNat - 1) 0 :=
  ⟨withBody 3 [2, 1, 0x91] byteDev, by decide +kernel⟩

/-- EV11 and EV12: the id matches, and it does not. -/
theorem witness_AckMatchingAsStated :
    ∀ s ∈ [withBody 3 [2, 2, 0x99] (pending byteDev), withBody 3 [2, 1, 0x90] (pending byteDev)],
      crcFold (s.rxLen :: s.rxBuf.take (s.rxLen.toNat - 1)) = s.rxBuf.getD (s.rxLen.toNat - 1) 0 ∧
      s.rxBuf.getD 0 0 = 2 := by decide +kernel

theorem witness_CorruptFrameIsDropped :
    ∃ (length id checksum : Byte) (payload : List Byte) (s : State),
      s.seq = .idle ∧ s.feed = [] ∧ noDeadline s = true ∧ s.rxState = .awaitingStart ∧
      s.rxBuf.length = maxBody s.straps ∧ 3 ≤ length.toNat ∧ length.toNat ≤ s.straps.maxPayload.val + 3 ∧
      payload.length + 3 = length.toNat ∧ checksum ≠ crcFrame length 0 id payload ∧
      checksum ≠ crcFrame length 1 id payload ∧ checksum ≠ crcFrame length 2 id payload :=
  ⟨6, 2, 0x67, [0x0A, 0x14, 0x1E], listener, by decide +kernel⟩

/-- The first and the last byte whose flip the statement speaks of. -/
theorem witness_OneFlippedBitDropsTheFrame :
    ∃ (payload : List Byte) (s : State), s.seq = .idle ∧ s.feed = [] ∧ noDeadline s = true ∧
      s.rxState = .awaitingStart ∧ s.rxBuf.length = maxBody s.straps ∧ payload.length ≤ s.straps.maxPayload.val ∧
      2 < payload.length + 5 ∧ 2 ≤ payload.length + 4 ∧ payload.length + 4 < payload.length + 5 ∧ 7 < 8 :=
  ⟨[0x0A, 0x14, 0x1E], byteDev, by decide +kernel⟩

/-- TYPE 3 (EV18) and TYPE 255. -/
theorem witness_ReservedTypeIsRefused :
    ∀ ty ∈ ([3, 255] : List Byte), ∃ (b : Byte) (s : State), s.rxState = .readingBody ∧ s.rxIdx + 1 = s.rxLen.toNat ∧
      crcFold (s.rxLen :: (s.rxBuf.set s.rxIdx b).take s.rxIdx) = (s.rxBuf.set s.rxIdx b).getD s.rxIdx 0 ∧
      3 ≤ ((s.rxBuf.set s.rxIdx b).getD 0 0).toNat ∧ rxByte s 0 = ty := by
  intro ty hty
  simp only [List.mem_cons, List.not_mem_nil, or_false] at hty
  obtain rfl | rfl := hty
  · exact ⟨0xF4, withBody 4 [3, 9, 0x55] byteDev, by decide +kernel⟩
  · exact ⟨crcFold [3, 255, 9], withBody 3 [255, 9] byteDev, by decide +kernel⟩

theorem witness_BytesWithoutStartAreDiscarded :
    ∃ (bytes : List Byte) (rest : List Item) (s : State), s.seq = .idle ∧ s.feed = [] ∧ noDeadline s = true ∧
      s.rxState = .awaitingStart ∧ s.port = .frame bytes :: rest ∧ bytes ≠ [] ∧ 0xA5 ∉ bytes :=
  ⟨[0xA4, 0x00], [], { byteDev with port := [.frame [0xA4, 0x00]] }, by decide +kernel⟩

/-- A byte-level device to which that frame, of TYPE 3..255, is offered. -/
def strayFrame (ty ck : Byte) : State := { byteDev with port := [.frame ([0xA5, 4, ty, 9] ++ [0x55] ++ [ck])] }

/-- TYPE 3 and 255; a wrong checksum, and the right one (EV18). -/
theorem witness_UnassignedTypeIsDroppedUnlessItValidates :
    ∀ ty ∈ ([3, 255] : List Byte), ∀ ck ∈ [crcFold [4, ty, 9, 0x55], crcFold [4, ty, 9, 0x55] ^^^ 1],
      (strayFrame ty ck).seq = .idle ∧ (strayFrame ty ck).feed = [] ∧ noDeadline (strayFrame ty ck) = true ∧
      (strayFrame ty ck).rxState = .awaitingStart ∧
      (strayFrame ty ck).rxBuf.length = maxBody (strayFrame ty ck).straps ∧ 3 ≤ ty.toNat ∧ 3 ≤ (4 : Byte).toNat ∧
      (4 : Byte).toNat ≤ (strayFrame ty ck).straps.maxPayload.val + 3 ∧
      ([0x55] : List Byte).length + 3 = (4 : Byte).toNat ∧
      (strayFrame ty ck).port = .frame ([0xA5, 4, ty, 9] ++ [0x55] ++ [ck]) :: [] := by decide +kernel

/-- HELLO (EV1), a fresh DATA frame (EV6) and its repetition, at both levels, with a transmission pending and periodic HELLO
on. -/
theorem witness_ValidatedFrameIsAcknowledgedThenDelivered :
    ∀ d ∈ [listener, speaker], ∀ s ∈ [withBody 4 [0x00, 0x01, 0x10, 0x3D] (pending { d with helloInt := 1000 }),
        withBody 6 [0x01, 0x02, 0x0A, 0x14, 0x1E, 0x66] (pending { d with helloInt := 1000 }),
        withBody 6 [0x01, 0x02, 0x0A, 0x14, 0x1E, 0x66] { pending d with lastValid := true, lastId := 2 }],
      crcFold (s.rxLen :: s.rxBuf.take (s.rxLen.toNat - 1)) = s.rxBuf.getD (s.rxLen.toNat - 1) 0 ∧
      (s.rxBuf.getD 0 0 = 0 ∨ s.rxBuf.getD 0 0 = 1) ∧ noDeadline s = false ∧ s.feed = [] ∧
      canSend (ackBytes (s.rxBuf.getD 1 0)) s = true := by decide +kernel

/-- R274 case 3: a DATA frame completes in the POLL whose deadline has passed; the ACK goes out first, then the
retransmission, and both are in the same POLL. -/
theorem test_ack_before_retransmission :
    holds (exec (.byte 0x66) { withBody 6 [0x01, 0x02, 0x0A, 0x14, 0x1E] (pending listener) with env := quiet 2 0 41 })
      (fun t => t.txBytes == [0xA5, 0x03, 0x02, 0x02, 0x99, 0xA5, 0x06, 0x01, 0x02, 0x0A, 0x14, 0x1E, 0x66] &&
        t.events == [⟨2, 1, [0x0A, 0x14, 0x1E], 3⟩] && t.pend.retries == 1) = true := by decide +kernel

/-- Byte level and wire level, with a payload and without. -/
theorem witness_HelloIsCapturedAcknowledgedDelivered :
    ∀ s ∈ [listener, speaker], s.seq = .idle ∧ s.feed = [] ∧ noDeadline s = true ∧ s.rxState = .awaitingStart ∧
      s.rxBuf.length = maxBody s.straps ∧ Instr.wellFormed s.straps.maxPayload.val (.hello 4 1 [0x10] 0x3D) = true ∧
      Instr.wellFormed s.straps.maxPayload.val (.hello 3 1 [] (crcFrame 3 0 1 [])) = true ∧
      canSend (ackBytes 1) s = true := by decide +kernel

/-- A fresh id and a repeated one. -/
theorem witness_DataIsFilteredAcknowledgedDelivered :
    ∀ s ∈ [listener, { listener with lastValid := true, lastId := 2 }, speaker],
      s.seq = .idle ∧ s.feed = [] ∧ noDeadline s = true ∧ s.rxState = .awaitingStart ∧
      s.rxBuf.length = maxBody s.straps ∧
      Instr.wellFormed s.straps.maxPayload.val (.data 6 2 [0x0A, 0x14, 0x1E] 0x66) = true ∧
      canSend (ackBytes 2) s = true := by decide +kernel

theorem witness_UnmatchedAckChangesNothing :
    ∃ (length id checksum : Byte) (payload : List Byte) (s : State),
      s.seq = .idle ∧ s.feed = [] ∧ noDeadline s = true ∧ s.rxState = .awaitingStart ∧
      s.rxBuf.length = maxBody s.straps ∧
      Instr.wellFormed s.straps.maxPayload.val (.ack length id payload checksum) = true :=
  ⟨3, 1, 0x90, [], byteDev, by decide +kernel⟩

/-- The last clock read exactly at the deadline, 40 ms. -/
theorem witness_MatchingAckClearsTheSlot :
    ∃ (length id checksum : Byte) (payload : List Byte) (ds rest : List Draw) (s : State),
      s.seq = .idle ∧ s.feed = [] ∧ s.helloInt = 0 ∧ s.rxState = .awaitingStart ∧
      s.rxBuf.length = maxBody s.straps ∧
      Instr.wellFormed s.straps.maxPayload.val (.ack length id payload checksum) = true ∧
      s.pend.active = true ∧ s.pend.needAck = true ∧ s.pend.id = id ∧
      s.env = ds ++ rest ∧ ds.length = payload.length + 4 ∧
      readMillis { s with micros := s.micros + (ds.map Draw.us).sum, millis := s.millis + (ds.map Draw.ms).sum } =
        s.pend.lastMs + s.ackTo :=
  ⟨3, 2, 0x99, [], quiet 4 0 10, [], { pending byteDev with env := quiet 4 0 10 ++ [] }, by decide +kernel⟩

theorem witness_AckBeatsTheDeadline :
    ∃ (b : Byte) (s : State), s.seq = .idle ∧ s.feed = [] ∧ s.helloInt = 0 ∧
      s.rxState = .readingBody ∧ s.rxIdx + 1 = s.rxLen.toNat ∧ 3 ≤ s.rxLen.toNat ∧
      s.rxLen.toNat ≤ s.rxBuf.length ∧ b = crcFold (s.rxLen :: s.rxBuf.take s.rxIdx) ∧ s.rxBuf.getD 0 0 = 2 ∧
      s.rxBuf.getD 1 0 = s.pend.id ∧ s.pend.active = true ∧ s.pend.needAck = true ∧
      s.pend.lastMs + s.ackTo < readMillis s :=
  ⟨0x99, { withBody 3 [2, 2] (pending byteDev) with millis := 50 }, by decide +kernel⟩

/-- No acknowledgment asked for, and one asked for while the slot is taken; at both levels. -/
theorem witness_UntrackedSendGoesOutOnce :
    ∀ s ∈ [byteDev, speaker, pending byteDev, pending speaker], ∃ ack : Bool,
      s.seq = .idle ∧ s.feed = [] ∧ min 1 s.straps.maxPayload.val ≤ ([0x42] : List Byte).length ∧
      (ack && !s.pend.active) = false ∧ (ack = true ↔ s.pend.active = true) ∧
      canSend (encodeFrame s.straps 1 s.nextId [0x42] 1) s = true := by
  intro s hs
  simp only [List.mem_cons, List.not_mem_nil, or_false] at hs
  obtain rfl | rfl | rfl | rfl := hs
  · exact ⟨false, by decide +kernel⟩
  · exact ⟨false, by decide +kernel⟩
  · exact ⟨true, by decide +kernel⟩
  · exact ⟨true, by decide +kernel⟩

theorem witness_TrackedSendFillsTheSlot :
    ∀ s ∈ [{ byteDev with env := quiet 1 0 500 }, speaker],
      s.seq = .idle ∧ s.feed = [] ∧ min 1 s.straps.maxPayload.val ≤ ([0x42] : List Byte).length ∧
      s.pend.active = false ∧ canSend (encodeFrame s.straps 1 s.nextId [0x42] 1) s = true ∧
      (sentState (encodeFrame s.straps 1 s.nextId [0x42] 1) 0 s).env ≠ [] := by decide +kernel

/-- At the wire level with just the calls of the frame; at the byte level with none. -/
theorem witness_SendCapturesItsFrameBeforeTheStamp :
    ∀ s ∈ [byteDev, { wireDev with env := quiet (23 * 6) 1000 1 }],
      s.seq = .idle ∧ s.feed = [] ∧ min 1 s.straps.maxPayload.val ≤ ([0x42] : List Byte).length ∧
      s.pend.active = false ∧ canSend (encodeFrame s.straps 1 s.nextId [0x42] 1) s = true ∧
      (sentState (encodeFrame s.straps 1 s.nextId [0x42] 1) 0 s).env = [] := by decide +kernel

/-- A line that is busy for thirty looks, then free. -/
theorem witness_CompletedSendWhateverTheLine :
    ∃ (payload : List Byte) (len : Nat) (ack : Bool) (s t : State),
      s.straps.level = .wire ∧ s.seq = .idle ∧ s.feed = [] ∧
      exec (.send payload len ack) s = .next t ∧ t.seq = .idle := by
  have h : holds (exec (.send [] 0 true) { wireDev with env := List.replicate 30 ⟨1, 0, true⟩ ++ quiet 200 100 1 })
      (fun t => t.seq.isIdle) = true := by decide +kernel
  cases he : exec (.send [] 0 true) { wireDev with env := List.replicate 30 ⟨1, 0, true⟩ ++ quiet 200 100 1 } with
  | next t => rw [he] at h; exact ⟨[], 0, true, _, t, rfl, rfl, rfl, he, by simpa [holds] using h⟩
  | fault r => cases r
  | refused r => rw [he] at h; cases h

theorem witness_ShortPayloadIsRefused :
    ∃ (payload : List Byte) (len : Nat) (s : State), payload.length < min len s.straps.maxPayload.val :=
  ⟨[1], 2, wireDev, by decide +kernel⟩

theorem witness_InitSendsHelloOnRequest :
    ∀ s ∈ [{ byteDev with env := quiet 1 0 100 }, speaker],
      s.seq = .idle ∧ s.feed = [] ∧ canSend (encodeFrame s.straps 0 s.nextId [s.straps.devId] 1) s = true ∧
      (sentState (encodeFrame s.straps 0 s.nextId [s.straps.devId] 1) 0 s).env ≠ [] := by decide +kernel

/-- The three clauses: at the deadline; one past it with the retries used up; one past it with one left. -/
theorem witness_RetryTickRetransmitsOrGivesUp :
    ∃ (d d' : Draw) (s : State), s.seq = .retryNow ∧ s.feed = [] ∧ s.helloInt = 0 ∧
      readMillis (useDraw d [] s) = s.pend.lastMs + s.ackTo ∧
      readMillis (useDraw d' [] s) = s.pend.lastMs + s.ackTo + 1 ∧
      ({ s with maxRetry := 0 } : State).maxRetry ≤ s.pend.retries ∧ s.pend.retries < s.maxRetry ∧
      canSend (encodeFrame s.straps s.pend.type s.pend.id s.pend.payload s.pend.len) s = true :=
  ⟨⟨0, 40, false⟩, ⟨0, 41, false⟩, { pending byteDev with seq := .retryNow }, by decide +kernel⟩

/-- The retransmitting clause once more, whole, at the wire level. -/
theorem witness_RetryTickOnTheWire :
    ∃ (d : Draw) (rest : List Draw) (s : State), s.seq = .retryNow ∧ s.feed = [] ∧ s.helloInt = 0 ∧ s.env = d :: rest ∧
      s.pend.lastMs + s.ackTo < readMillis (useDraw d rest s) ∧ s.pend.retries < s.maxRetry ∧
      canSend (encodeFrame s.straps s.pend.type s.pend.id s.pend.payload s.pend.len)
        { useDraw d rest s with seq := .idle } = true ∧
      (sentState (encodeFrame s.straps s.pend.type s.pend.id s.pend.payload s.pend.len) 0
        { useDraw d rest s with seq := .idle }).env ≠ [] :=
  ⟨⟨0, 41, false⟩, quiet 200 1000 1, { pending wireDev with seq := .retryNow, env := ⟨0, 41, false⟩ :: quiet 200 1000 1 },
   by decide +kernel⟩

/-- `MAXRETRY` 0 and 3. -/
theorem witness_ExactlyMaxRetryRetransmissions :
    ∀ n ∈ [0, 3], ∃ s : State, s.straps.level = .byte ∧ s.seq = .idle ∧ s.feed = [] ∧ s.chanIn = [] ∧ s.helloInt = 0 ∧
      s.pend.active = true ∧ s.pend.needAck = true ∧ s.pend.retries = 0 ∧
      s.pend.lastMs ≤ readMillis s ∧ s.env.length = 2 * s.maxRetry + 1 ∧ s.maxRetry = n ∧
      (∀ d ∈ s.env, s.ackTo < d.ms ∧ 1000 * (s.ackTo + 1) ≤ d.us) := by
  intro n hn
  simp only [List.mem_cons, List.not_mem_nil, or_false] at hn
  obtain rfl | rfl := hn
  · exact ⟨{ pending byteDev with maxRetry := 0, env := quiet 1 41000 41 }, by decide +kernel⟩
  · exact ⟨{ pending byteDev with maxRetry := 3, env := quiet 7 41000 41 }, by decide +kernel⟩

/-- The two clauses: one millisecond before the interval has elapsed, and exactly then. -/
theorem witness_HelloTickSendsWhenDue :
    (∃ (d : Draw) (s : State), s.seq = .helloNow ∧ s.feed = [] ∧ s.helloInt ≠ 0 ∧ s.env = [d] ∧
      readMillis (useDraw d [] s) + 1 = s.lastHello + s.helloInt) ∧
    (∃ (d d' : Draw) (s : State), s.seq = .helloNow ∧ s.feed = [] ∧ s.helloInt ≠ 0 ∧ s.env = [d, d'] ∧
      s.lastHello + s.helloInt = readMillis (useDraw d [d'] s) ∧
      canSend (encodeFrame s.straps 0 s.nextId [s.straps.devId] 1) { useDraw d [d'] s with seq := .idle } = true ∧
      (sentState (encodeFrame s.straps 0 s.nextId [s.straps.devId] 1) 0 { useDraw d [d'] s with seq := .idle }).env ≠ []) :=
  ⟨⟨⟨0, 5999, false⟩, { byteDev with seq := .helloNow, helloInt := 1000, lastHello := 5000, env := [⟨0, 5999, false⟩] },
    by decide +kernel⟩,
   ⟨⟨0, 6000, false⟩, ⟨0, 1, false⟩,
    { byteDev with seq := .helloNow, helloInt := 1000, lastHello := 5000, env := [⟨0, 6000, false⟩, ⟨0, 1, false⟩] },
    by decide +kernel⟩⟩

theorem witness_PollTakesTheOldestByte :
    (∃ (b : Byte) (rest : List Byte) (s : State), s.straps.level = .byte ∧ s.feed = [] ∧ s.chanIn = b :: rest) ∧
    (∃ s : State, s.straps.level = .byte ∧ s.seq = .idle ∧ s.feed = [] ∧ s.chanIn = [] ∧ noDeadline s = true) :=
  ⟨⟨0xA5, [0x03], { byteDev with chanIn := [0xA5, 0x03] }, rfl, rfl, rfl⟩, ⟨byteDev, rfl, rfl, rfl, rfl, rfl⟩⟩

theorem witness_QualityLevelsSetPeriodAndTimeout :
    (∃ level : Nat, (level = 0 ∨ 4 < level) ∧ level = 0) ∧ (∃ level : Nat, (level = 0 ∨ 4 < level) ∧ level = 5) :=
  ⟨⟨0, by decide⟩, ⟨5, by decide⟩⟩

theorem witness_PeerIdRespondsOnceKnown : ∃ s : State, s.peerKnown = true := ⟨{ wireDev with peerKnown := true }, rfl⟩

/-- After reset, and inside a POLL: states that meet the invariant and take a step. -/
theorem reset_meets_invariant (v : Level) : Invariant (State.resetWith (device v)) where
  bitp := by constructor <;> cases v <;> decide
  pend := fun h => nomatch h
  arrays := by constructor <;> cases v <;> decide
  reassembly := ⟨fun h => (nomatch h), fun _ => rfl, fun h => (nomatch h)⟩
  pin := rfl
  stamps := ⟨fun h => (nomatch h), Nat.zero_le _, fun h => (nomatch h), fun h => (nomatch h)⟩
  position := ⟨fun _ _ _ _ _ h => (nomatch h), fun _ h => (nomatch h), fun h => (nomatch h),
    (fun _ h => by obtain h | h | h := h <;> cases h), fun _ => rfl⟩

theorem polling_meets_invariant : Invariant polling where
  bitp := by constructor <;> decide
  pend := fun h => nomatch h
  arrays := by constructor <;> decide
  reassembly := ⟨fun h => (nomatch h), fun _ => rfl, fun h => (nomatch h)⟩
  pin := rfl
  stamps := ⟨fun h => (nomatch h), Nat.zero_le _, fun h => (nomatch h), fun _ => Nat.zero_le _⟩
  position := ⟨fun _ _ _ _ _ h => (nomatch h), fun _ h => (nomatch h), fun h => (nomatch h),
    (fun _ h => by obtain h | h | h := h <;> cases h), fun h => (nomatch h)⟩

theorem witness_StepKeepsInvariant :
    (∃ s t : State, Invariant s ∧ ready s = true ∧ step s = .next t) ∧
    (∃ s t : State, Invariant s ∧ ready s = false ∧ step s = .next t) := by
  obtain ⟨t, h⟩ := next_of_holds (o := step polling) (by decide +kernel)
  exact ⟨⟨wireDev, _, reset_meets_invariant _, rfl, rfl⟩, ⟨polling, t, polling_meets_invariant, rfl, h⟩⟩

theorem witness_OnlyHelloAndDataReachTheHandler : ∃ s t : State, Invariant s ∧ step s = .next t :=
  ⟨wireDev, _, reset_meets_invariant _, rfl⟩

theorem witness_ResetLeavesTheStatedValues :
    ∃ (p : Straps) (level : Nat) (q : Quality), qualityOfLevel level = some q ∧ p.qualityReset = q :=
  ⟨device .wire, 1, .q1, rfl, rfl⟩

theorem witness_ConstructionParametersNeverChange : ∃ s t : State, step s = .next t :=
  ⟨{ wireDev with port := [cmdItem 4 (num := 2)] }, _, rfl⟩

theorem witness_FlagsAreNeverCleared :
    ∃ s t : State, step s = .next t ∧ s.peerKnown = true ∧ s.lastValid = true ∧ s.handlerEn = true :=
  ⟨{ wireDev with peerKnown := true, lastValid := true, handlerEn := true, port := [cmdItem 3] }, _, rfl, rfl, rfl, rfl⟩

theorem witness_ClocksNeverGoBack : ∃ s t : State, step s = .next t := witness_ConstructionParametersNeverChange

theorem witness_BitPeriodComesFromTheTable : ∃ s t : State, step s = .next t ∧ t.bitp ≠ s.bitp :=
  ⟨{ wireDev with port := [cmdItem 4 (num := 2)] }, _, rfl, by decide⟩

/-- The slot becomes active: in one step from the port, and at the clock read of a SEND in progress. -/
theorem witness_OnlySendClaimsTheSlot :
    (∃ s t : State, ready s = true ∧ step s = .next t ∧ s.pend.active = false ∧ t.pend.active = true) ∧
    (∃ s t : State, s.seq = .sendStamp 1 ∧ step s = .next t ∧ s.pend.active = false ∧ t.pend.active = true) :=
  ⟨⟨{ byteDev with env := quiet 1 0 5, port := [cmdItem 2 (flag := true)] }, _, rfl, rfl, rfl, rfl⟩,
   ⟨{ byteDev with env := quiet 1 0 5, seq := .sendStamp 1 }, _, rfl, rfl, rfl, rfl⟩⟩

theorem witness_ReceivingDrawsNoId :
    ∀ i ∈ ([.poll, .byte 0xA5, .hello 4 1 [0x10] 0x3D, .data 6 2 [0x0A, 0x14, 0x1E] 0x66, .ack 3 1 [] 0x90] : List Instr),
      listener.helloInt = 0 ∧ ∃ t, exec i listener = .next t := by
  intro i hi
  refine ⟨rfl, next_of_holds ?_⟩
  revert i
  decide +kernel

theorem witness_PollRaisesAtMostOneEvent : ∃ s t : State, s.feed = [] ∧ exec .poll s = .next t :=
  ⟨byteDev, _, rfl, rfl⟩

theorem witness_ByteChannelIsLossless : ∃ l m : Link, l.stepNear = .next m :=
  ⟨{ near := { byteDev with port := [cmdItem 8] }, far := byteDev }, _, rfl⟩

end Sys2Proof.Tests
end

section
/-! The scope family (00_scope.md): a step runs the decoded instruction (R8, R50), and the byte channel delivers what is
sent and is read oldest first (R15). -/
namespace Sys2Proof.Machine

/-! ### The byte channel is lossless (R15) -/

/-- What an instruction sends is added after what was sent before it (R171). -/
theorem exec_txBytes_prefix {i : Instr} {s t : State} (h : exec i s = .next t) : s.txBytes <+: t.txBytes := by
  obtain g | ⟨-, rfl⟩ | ⟨_, _, -, -, rfl⟩ | ⟨_, rfl⟩ | ⟨_, rfl⟩ | ⟨_, rfl⟩ := exec_cases h
  · exact g.txBytes
  all_goals exact List.prefix_rfl

/-- No step takes back a byte that was sent, or changes the order of the bytes sent before it. -/
theorem step_txBytes_prefix {s t : State} (h : step s = .next t) : s.txBytes <+: t.txBytes := by
  obtain ⟨-, -, rfl⟩ | ⟨_, _, _, -, -, -, he⟩ | ⟨_, _, _, _, -, -, -, hf⟩ | ⟨-, hr⟩ := step_cases h
  · exact List.prefix_rfl
  · exact (exec_txBytes_prefix he :)
  · exact (grows_receiveFrame hf).txBytes
  · exact (grows_resume hr).txBytes

/-- A step of the near device that answers: the bytes it has added to its record are put on the peer's channel. -/
theorem stepNear_eq_next {l m : Link} (h : l.stepNear = .next m) :
    ∃ t, step l.near = .next t ∧
      m = { near := t, far := { l.far with chanIn := l.far.chanIn ++ t.txBytes.drop l.near.txBytes.length } } := by
  unfold Link.stepNear at h
  split at h
  next t ht => cases h; exact ⟨t, ht, rfl⟩
  next => cases h
  next => cases h

/-- Settles O60: a step only adds to the bytes sent, so what the link puts on the channel is the whole addition. -/
theorem byteChannelIsLossless : Obligations.ByteChannelIsLossless := by
  intro l m h
  obtain ⟨t, ht, rfl⟩ := stepNear_eq_next h
  obtain ⟨sent, hsent⟩ := step_txBytes_prefix ht
  refine ⟨sent, hsent.symm, ?_⟩
  rw [← hsent, List.drop_left]

/-! ### A step of an idle block (R8, R50) -/

/-- An idle block accepts the oldest waiting item and executes what the decoder reads in it. -/
theorem step_of_decoded {s : State} {item : Item} {rest : List Item} {i : Instr} (hr : ready s = true)
    (hp : s.port = item :: rest) (hd : decode item = .ok i) : step s = exec i { s with port := rest } := by
  unfold step
  rw [if_pos hr, hp]
  dsimp only
  rw [hd]

/-- An idle block with nothing waiting performs no work. -/
theorem step_of_nothing_waiting {s : State} (hr : ready s = true) (hp : s.port = []) : step s = .next s := by
  unfold step
  rw [if_pos hr, hp]

/-- Settles O5: the two branches of a step of an idle block whose item, if there is one, decodes. -/
theorem stepRunsTheDecodedInstruction : Obligations.StepRunsTheDecodedInstruction :=
  ⟨fun _ _ _ _ => step_of_decoded, fun _ => step_of_nothing_waiting⟩

/-! ### A byte-level POLL (R212, R15) -/

theorem retryTick_feed (s : State) : (retryTick s).feed = s.feed := by
  rw [retryTick_eq, goTo_feed]

theorem stepStart_feed (b : Byte) (s : State) : (stepStart b s).feed = s.feed := by
  unfold stepStart
  split <;> rfl

theorem stepLength_feed (b : Byte) (s : State) : (stepLength b s).feed = s.feed := by
  unfold stepLength
  split <;> rfl

theorem stepBody_feed {b : Byte} {s t : State} (h : stepBody b s = .next t) : t.feed = s.feed := by
  by_cases hlast : s.rxIdx + 1 = s.rxLen.toNat
  · rw [stepBody_last hlast] at h
    rw [process_feed h, storeBody_feed]
  · rw [stepBody_more hlast] at h
    cases h
    rw [retryTick_feed, storeBody_feed]

/-- FC.RXSTEP does not see the bytes still to come (R174). -/
theorem received_feed {b : Byte} {s t : State} (h : received b s = .next t) : t.feed = s.feed := by
  obtain hs | hs | hs := rxState_cases s
  · rw [received_start hs] at h
    cases h
    rw [retryTick_feed, stepStart_feed]
  · rw [received_length hs] at h
    cases h
    rw [retryTick_feed, stepLength_feed]
  · rw [received_body hs] at h
    exact stepBody_feed h

/-- With no bytes of a frame still to come, receiving one byte is one POLL's reception of it. -/
theorem receiveAll_singleton {b : Byte} {s : State} (hf : s.feed = []) : receiveAll [b] s = received b s := by
  rw [receiveAll_cons, show ({ s with feed := [] } : State) = s by rw [← hf]]
  cases hr : received b s with
  | next t =>
    have ht : t.feed = [] := (received_feed hr).trans hf
    simpa only [andThen_next, settle, ht] using settle_of_feed_nil ht
  | fault r => rfl
  | refused r => rfl

theorem rxStart_byte_cons {s : State} {b : Byte} {rest : List Byte} (hl : s.straps.level = .byte)
    (hc : s.chanIn = b :: rest) : rxStart s = received b { s with chanIn := rest } := by
  unfold rxStart
  rw [hl, hc]

theorem rxStart_byte_nil {s : State} (hl : s.straps.level = .byte) (hc : s.chanIn = []) :
    rxStart s = .next (timedOut s) := by
  unfold rxStart
  rw [hl, hc]

/-- A byte-level POLL is the reception of the byte at the head of the channel, which it takes off. -/
theorem exec_poll_of_waiting_byte {s : State} {b : Byte} {rest : List Byte} (hl : s.straps.level = .byte)
    (hf : s.feed = []) (hc : s.chanIn = b :: rest) : exec .poll s = exec (.byte b) { s with chanIn := rest } := by
  show begin (rxStart s) = begin (receiveAll [b] { s with chanIn := rest })
  rw [rxStart_byte_cons hl hc, receiveAll_singleton (s := { s with chanIn := rest }) hf]

/-- A byte-level POLL of an idle block that finds no byte and watches no deadline changes nothing. -/
theorem exec_poll_of_no_byte {s : State} (hl : s.straps.level = .byte) (hs : s.seq = .idle) (hc : s.chanIn = [])
    (hn : noDeadline s = true) : exec .poll s = .next s := by
  show begin (rxStart s) = .next s
  have htimeout : timedOut s = s := (retryTick_none hn).trans (goTo_idle hs)
  rw [rxStart_byte_nil hl hc, htimeout]
  exact run_of_idle s.env s hs

/-- Settles O43: the channel's head is received as BYTE receives it; an empty channel is a timeout with no tick due. -/
theorem pollTakesTheOldestByte : Obligations.PollTakesTheOldestByte :=
  ⟨fun _ _ _ => exec_poll_of_waiting_byte, fun _ hl hs _ => exec_poll_of_no_byte hl hs⟩

end Sys2Proof.Machine
end

section
/-! The state family (10_state.md): the invariant R60 at reset and at every step, what no step undoes, who writes `BITP` and
claims the pending slot, and what a POLL draws and raises. -/
namespace Sys2Proof.Machine

variable {s t : State}

/-! ### The invariant, position by position -/

/-- R29, R30 of a LENGTH taken and of an index outside a body. -/
def LengthOk (s : State) : Prop :=
  (s.rxState = .readingBody → 3 ≤ s.rxLen.toNat ∧ s.rxLen.toNat ≤ maxBody s.straps) ∧
  (s.rxState ≠ .readingBody → s.rxIdx = 0)

/-- The two time stamps that outlive a command lie in the past (R38, R39). -/
def LastingStampsOk (s : State) : Prop :=
  (s.pend.active = true → s.pend.lastMs ≤ readMillis s) ∧ s.lastHello ≤ readMillis s

/-- What the invariant asks wherever the block is. -/
def RegistersOk (s : State) : Prop :=
  BitpOk s ∧ PendOk s ∧ ArraysOk s ∧ LengthOk s ∧ LastingStampsOk s

/-- A body that is being read is not complete (R30). -/
def BodyOpen (s : State) : Prop := s.rxState = .readingBody → s.rxIdx < s.rxLen.toNat

/-- No complete body waits for its ACK, and the pin is released (R44). -/
def AtRest (s : State) : Prop := BodyOpen s ∧ s.drv = false

/-- What the caller of FC.TXFRAME relies on while its frame goes out: the automatic ACK on the body it acknowledges (R201,
R275), SEND on its clamped length (R206), a retransmission on the pending slot (R207). -/
def AfterOk (a : After) (s : State) : Prop :=
  (a ≠ .autoAck → BodyOpen s) ∧
  (a = .autoAck → s.rxState = .readingBody ∧ s.rxIdx = s.rxLen.toNat ∧
    (bodyType s = Config.typeHello ∨ bodyType s = Config.typeData)) ∧
  (∀ payload len id ack, a = .send payload len id ack → len ≤ s.straps.maxPayload.val ∧ len ≤ payload.length) ∧
  (a = .retry → s.pend.active = true)

/-- What the invariant asks besides at one position. -/
def PosOk : Pos → State → Prop
  | .idle, s | .rxEnter, s | .helloNow, s | .helloStamp, s => AtRest s
  | .idleEnter tx, s => AfterOk tx.after s ∧ s.drv = false
  | .idleRead tx, s | .idleLow tx, s | .idleCheck tx, s =>
      AfterOk tx.after s ∧ s.drv = false ∧ s.tmp.hs ≤ s.micros
  | .cellPin level later tx, s => AfterOk tx.after s ∧ (level :: later).getLast? = some true
  | .cellDelay [] tx, s => AfterOk tx.after s ∧ s.drv = false
  | .cellDelay (c :: later) tx, s => AfterOk tx.after s ∧ (c :: later).getLast? = some true
  | .rxLeaveLow, s | .rxLeaveLowBudget, s | .rxWatch, s | .rxWatchBudget, s | .rxEdge, s | .rxGlitchDelay, s
  | .rxRecheck, s => AtRest s ∧ s.tmp.t0 ≤ readMillis s
  | .rxTarget i, s | .rxTargetBudget i, s | .rxSample i, s => (AtRest s ∧ s.tmp.t0 ≤ readMillis s) ∧ i < 8
  | .sendStamp id, s =>
      AtRest s ∧ s.pend.type = Config.typeData ∧ s.pend.id = id ∧ s.pend.len ≤ s.straps.maxPayload.val
  | .retryNow, s | .retryStamp, s => AtRest s ∧ s.pend.active = true

/-- The block may go to `p`. -/
def SoundAt (p : Pos) (s : State) : Prop := RegistersOk s ∧ PosOk p s

/-- The invariant but for the received bytes still to come. -/
def Sound (s : State) : Prop := SoundAt s.seq s

theorem afterOk_send {payload : List Byte} {len : Nat} {id : Byte} {ack : Bool} :
    AfterOk (.send payload len id ack) s ↔
      BodyOpen s ∧ len ≤ s.straps.maxPayload.val ∧ len ≤ payload.length where
  mp := fun ⟨hopen, _, hsend, _⟩ => ⟨hopen nofun, hsend _ _ _ _ rfl⟩
  mpr := fun ⟨hopen, hlen⟩ => ⟨fun _ => hopen, nofun, fun _ _ _ _ e => by cases e; exact hlen, nofun⟩

theorem afterOk_retry : AfterOk .retry s ↔ BodyOpen s ∧ s.pend.active = true := by simp [AfterOk]

theorem afterOk_hello : AfterOk .hello s ↔ BodyOpen s := by simp [AfterOk]

theorem afterOk_autoAck : AfterOk .autoAck s ↔ s.rxState = .readingBody ∧ s.rxIdx = s.rxLen.toNat ∧
    (bodyType s = Config.typeHello ∨ bodyType s = Config.typeData) := by simp [AfterOk]

/-- The invariant, sorted: what it asks of the registers wherever the block is, what it asks at the block's own position (at
each position the guards of R60's clauses are decided), and that no received byte waits between commands. -/
theorem invariant_iff (s : State) : Invariant s ↔ Sound s ∧ (s.seq = .idle → s.feed = []) := by
  have hinv : Invariant s ↔ BitpOk s ∧ PendOk s ∧ ArraysOk s ∧ ReassemblyOk s ∧ PinOk s ∧ StampsOk s ∧ PositionOk s :=
    ⟨fun ⟨a, b, c, d, e, f, g⟩ => ⟨a, b, c, d, e, f, g⟩, fun ⟨a, b, c, d, e, f, g⟩ => ⟨a, b, c, d, e, f, g⟩⟩
  have hposition : ReassemblyOk s ∧ PinOk s ∧ StampsOk s ∧ PositionOk s ↔
      (LengthOk s ∧ LastingStampsOk s ∧ PosOk s.seq s) ∧ (s.seq = .idle → s.feed = []) := by
    unfold ReassemblyOk PinOk StampsOk PositionOk LengthOk LastingStampsOk
    cases s.seq with
    | cellDelay later tx =>
      cases later <;>
        simp only [PosOk, AfterOk, BodyOpen, Pos.sendsAck, Pos.tx?, Pos.holdsHs, Pos.holdsT0, Pos.inRetry] <;>
        grind -ring -linarith -lia
    | _ =>
      simp only [PosOk, AtRest, AfterOk, BodyOpen, Pos.sendsAck, Pos.tx?, Pos.holdsHs, Pos.holdsT0, Pos.inRetry]
      grind -ring -linarith -lia
  rw [hinv, hposition]
  unfold Sound SoundAt RegistersOk
  tauto

/-- Between supplier calls the invariant is `Sound`: no received byte waits in an idle block. -/
theorem Sound.invariant (h : Sound s) (hf : s.feed = []) : Invariant s := (invariant_iff s).mpr ⟨h, fun _ => hf⟩

theorem Invariant.sound (h : Invariant s) : Sound s := ((invariant_iff s).mp h).1

theorem Sound.soundAt {p : Pos} (h : Sound s) (hp : s.seq = p) : SoundAt p s := hp ▸ h

/-! ### Time passing -/

/-- Clocks that move on keep the invariant: time stamps stay in the past, coupled or not (R55, R56). -/
theorem SoundAt.elapse {p : Pos} {us ms : Nat} (h : SoundAt p s) (hus : s.micros ≤ us) (hms : s.millis ≤ ms) :
    SoundAt p { s with micros := us, millis := ms } := by
  have hread : readMillis s ≤ readMillis { s with micros := us, millis := ms } := by
    unfold readMillis
    split
    · exact Nat.div_le_div_right hus
    · exact hms
  obtain ⟨⟨hbitp, hpend, harrays, hlength, hlast, hhello⟩, hpos⟩ := h
  refine ⟨⟨hbitp, hpend, harrays, hlength, fun ha => (hlast ha).trans hread, hhello.trans hread⟩, ?_⟩
  cases p with
  | idleRead | idleLow | idleCheck =>
    obtain ⟨hafter, hdrv, hhs⟩ := hpos
    exact ⟨hafter, hdrv, hhs.trans hus⟩
  | idleEnter | cellPin => exact ⟨hpos.1, hpos.2⟩
  | cellDelay later => cases later <;> exact ⟨hpos.1, hpos.2⟩
  | rxLeaveLow | rxLeaveLowBudget | rxWatch | rxWatchBudget | rxEdge | rxGlitchDelay | rxRecheck =>
    exact ⟨hpos.1, hpos.2.trans hread⟩
  | rxTarget | rxTargetBudget | rxSample =>
    exact ⟨⟨hpos.1.1, hpos.1.2.trans hread⟩, hpos.2⟩
  | idle | rxEnter | helloNow | helloStamp | sendStamp | retryNow | retryStamp => exact hpos

theorem SoundAt.tick {p : Pos} (h : SoundAt p s) (d : Draw) : SoundAt p (tick d s) :=
  h.elapse (Nat.le_add_right ..) (Nat.le_add_right ..)

theorem SoundAt.delay {p : Pos} (h : SoundAt p s) (n : Nat) (d : Draw) : SoundAt p (delay n d s) :=
  h.elapse (by omega) (Nat.le_add_right ..)

/-! ### The pending slot -/

theorem RegistersOk.releaseSlot (h : RegistersOk s) : RegistersOk (releaseSlot s) := by
  obtain ⟨hbitp, -, harrays, hlength, -, hhello⟩ := h
  exact ⟨hbitp, nofun, harrays, hlength, nofun, hhello⟩

theorem length_copyPayload {old payload : List Byte} {n : Nat} (hn : n ≤ payload.length) (ho : n ≤ old.length) :
    (copyPayload old payload n).length = old.length := by
  simp only [copyPayload, List.length_append, List.length_take, List.length_drop]
  omega

theorem RegistersOk.captureFrame {payload : List Byte} {len : Nat} (id : Byte) (h : RegistersOk s)
    (hfree : s.pend.active = false) (hmax : len ≤ s.straps.maxPayload.val) (hbytes : len ≤ payload.length) :
    RegistersOk (captureFrame payload len id s) := by
  obtain ⟨hbitp, -, ⟨hbuf, hold⟩, hlength, -, hhello⟩ := h
  have hactive : (Machine.captureFrame payload len id s).pend.active ≠ true := by
    show s.pend.active ≠ true
    simp [hfree]
  exact ⟨hbitp, fun ha => absurd ha hactive, ⟨hbuf, (length_copyPayload hbytes (hold ▸ hmax)).trans hold⟩, hlength,
    fun ha => absurd ha hactive, hhello⟩

/-- The slot's time stamp is the clock just read (R206, R207). -/
theorem RegistersOk.stampSlot (h : RegistersOk s) : RegistersOk { s with pend := { s.pend with lastMs := readMillis s } } := by
  obtain ⟨hbitp, hpend, harrays, hlength, -, hhello⟩ := h
  exact ⟨hbitp, hpend, harrays, hlength, fun _ => le_rfl, hhello⟩

theorem sound_fillSlot {id : Byte} (h : SoundAt (.sendStamp id) s) : Sound (fillSlot id s) := by
  obtain ⟨⟨hbitp, -, harrays, hlength, -, hhello⟩, hrest, htype, -, hlen⟩ := h
  exact ⟨⟨hbitp, fun _ => ⟨rfl, htype, hlen⟩, harrays, hlength, fun _ => le_rfl, hhello⟩, hrest⟩

/-! ### What the invariant does not see -/

theorem PosOk.frame {p q : Pos} {bitp ackTo maxRetry helloInt freeCtr : Nat} {handlerEn : Bool} {feed : List Byte}
    {env : List Draw} {port : List Item} {responses : List Response} (h : PosOk p s) :
    PosOk p { s with bitp := bitp, ackTo := ackTo, maxRetry := maxRetry, helloInt := helloInt, handlerEn := handlerEn,
                     seq := q, feed := feed, env := env, freeCtr := freeCtr, port := port, responses := responses } := by
  cases p with
  | cellDelay later => cases later <;> exact h
  | _ => exact h

theorem SoundAt.frame {p q : Pos} {ackTo maxRetry helloInt freeCtr : Nat} {handlerEn : Bool} {feed : List Byte}
    {env : List Draw} {port : List Item} {responses : List Response} (h : SoundAt p s) :
    SoundAt p { s with ackTo := ackTo, maxRetry := maxRetry, helloInt := helloInt, handlerEn := handlerEn,
                       seq := q, feed := feed, env := env, freeCtr := freeCtr, port := port, responses := responses } :=
  ⟨h.1, h.2.frame⟩

/-- Going to a position writes nothing the position's part of the invariant speaks of. -/
theorem SoundAt.goTo {p : Pos} (h : SoundAt p s) : Sound (goTo p s) := h.frame

theorem Invariant.frame {ackTo maxRetry helloInt freeCtr : Nat} {handlerEn : Bool} {env : List Draw} {port : List Item}
    {responses : List Response} (h : Invariant s) :
    Invariant { s with ackTo := ackTo, maxRetry := maxRetry, helloInt := helloInt, handlerEn := handlerEn,
                       env := env, freeCtr := freeCtr, port := port, responses := responses } :=
  (invariant_iff _).mpr ⟨h.sound.frame, ((invariant_iff s).mp h).2⟩

/-! ### The end of a POLL -/

theorem sound_helloTick (h : SoundAt .idle s) : Sound (helloTick s) := by
  unfold helloTick
  split <;> exact h

theorem sound_retryTick (h : SoundAt .idle s) : Sound (retryTick s) := by
  unfold retryTick
  split
  next hw =>
    have hactive : s.pend.active = true := (Bool.and_eq_true_iff.mp hw).1
    exact ⟨h.1, h.2, hactive⟩
  next => exact sound_helloTick h

/-- Reassembly back at its start, whatever body was being read (R177). -/
theorem sound_endProcess (h : RegistersOk s) (hdrv : s.drv = false) : Sound (endProcess s) := by
  obtain ⟨hbitp, hpend, harrays, -, hstamps⟩ := h
  exact sound_retryTick (s := resetReassembly s) ⟨⟨hbitp, hpend, harrays, ⟨nofun, fun _ => rfl⟩, hstamps⟩, nofun, hdrv⟩

theorem sound_endProcess_deliver (h : RegistersOk s) (hdrv : s.drv = false) : Sound (endProcess (deliver s)) := by
  have key : RegistersOk (deliver s) ∧ (deliver s).drv = false := by
    unfold deliver
    split
    · exact ⟨h, hdrv⟩
    · split <;> exact ⟨h, hdrv⟩
  exact sound_endProcess key.1 key.2

/-! ### Sending a frame -/

/-- Each caller of FC.TXFRAME finds what it relies on (R171). -/
theorem sound_frameSent {a : After} (h : RegistersOk s) (ha : AfterOk a s) (hdrv : s.drv = false) :
    Sound (frameSent a s) := by
  cases a with
  | send payload len id ack =>
    obtain ⟨hopen, hmax, hbytes⟩ := afterOk_send.mp ha
    unfold frameSent
    dsimp only
    split
    next hclaims =>
      have hfree : s.pend.active = false := by simpa [claimsSlot] using (Bool.and_eq_true_iff.mp hclaims).2
      exact ⟨h.captureFrame id hfree hmax hbytes, ⟨hopen, hdrv⟩, rfl, rfl, hmax⟩
    next => exact ⟨h, hopen, hdrv⟩
  | autoAck => exact sound_endProcess_deliver h hdrv
  | retry =>
    obtain ⟨hopen, hactive⟩ := afterOk_retry.mp ha
    exact ⟨h, ⟨hopen, hdrv⟩, hactive⟩
  | hello => exact ⟨h, afterOk_hello.mp ha, hdrv⟩

theorem sound_sendBytes {a : After} (x : List Byte) (h : RegistersOk s) (ha : AfterOk a s) (hdrv : s.drv = false) :
    Sound (sendBytes x a s) := by
  unfold sendBytes
  split
  · exact sound_frameSent (s := { s with txBytes := _ }) h ha hdrv
  · exact ⟨h, ha, hdrv⟩
  · exact sound_frameSent h ha hdrv

theorem sound_sendHello (h : SoundAt .idle s) : Sound (sendHello s) :=
  sound_sendBytes (s := newId s) _ h.1 (afterOk_hello.mpr h.2.1) h.2.2

theorem sound_retryDue (h : SoundAt .retryNow s) : Sound (retryDue s) := by
  obtain ⟨hregs, hrest, hactive⟩ := h
  unfold retryDue
  split
  · split
    · exact sound_sendBytes (s := { s with pend := { s.pend with retries := s.pend.retries + 1 } }) _ hregs
        (afterOk_retry.mpr ⟨hrest.1, hactive⟩) hrest.2
    · exact sound_helloTick (s := releaseSlot s) ⟨hregs.releaseSlot, hrest⟩
  · exact sound_helloTick ⟨hregs, hrest⟩

theorem sound_retryStamped (h : SoundAt .retryStamp s) : Sound (retryStamped s) :=
  sound_helloTick (s := { s with pend := _ }) ⟨h.1.stampSlot, h.2.1⟩

theorem sound_helloDue (h : SoundAt .helloNow s) : Sound (helloDue s) := by
  unfold helloDue
  split
  · exact sound_sendHello h
  · exact h

theorem sound_helloStamped (h : SoundAt .helloStamp s) : Sound (helloStamped s) := by
  obtain ⟨⟨hbitp, hpend, harrays, hlength, hlast, -⟩, hrest⟩ := h
  exact ⟨⟨hbitp, hpend, harrays, hlength, hlast, le_rfl⟩, hrest⟩

theorem sound_toCell {tx : Tx} (h : RegistersOk s) (ha : AfterOk tx.after s) (b : Byte) :
    Sound (toCell (cellsOfByte b) tx s) := by
  rw [toCell_cellsOfByte]
  refine ⟨h, ha, ?_⟩
  rw [← List.cons_append, List.getLast?_concat]

theorem sound_byteSent {tx : Tx} (h : SoundAt (.cellDelay [] tx) s) : Sound (byteSent tx s) := by
  obtain ⟨hregs, ha, hdrv⟩ := h
  unfold byteSent
  dsimp only
  split
  · exact ⟨hregs, ha, hdrv⟩
  · exact sound_frameSent (s := { s with txBytes := _ }) hregs ha hdrv

/-! ### Receiving a byte -/

/-- A complete body of TYPE `ty` stands in `RXBUF`, and the invariant's registers are as they should be. -/
def CompleteBody (ty : Byte) (s : State) : Prop :=
  RegistersOk s ∧ s.drv = false ∧ s.rxState = .readingBody ∧ s.rxIdx = s.rxLen.toNat ∧ bodyType s = ty

theorem CompleteBody.type {ty : Byte} (h : CompleteBody ty s) : bodyType s = ty := h.2.2.2.2

theorem completeBody_capturePeer {ty : Byte} (h : CompleteBody ty s) : CompleteBody ty (capturePeer s) := by
  unfold capturePeer
  split <;> exact h

theorem completeBody_matchAck {ty : Byte} (h : CompleteBody ty s) : CompleteBody ty (matchAck s) := by
  unfold matchAck
  split
  · exact ⟨h.1.releaseSlot, h.2⟩
  · exact h

theorem completeBody_filterDuplicate {ty : Byte} (h : CompleteBody ty s) : CompleteBody ty (filterDuplicate s) := by
  unfold filterDuplicate
  split
  · split <;> exact h
  · exact h

theorem knownType_iff (ty : Byte) :
    knownType ty = true ↔ ty = Config.typeHello ∨ ty = Config.typeData ∨ ty = Config.typeAck := by
  simp [knownType, or_assoc]

/-- PE.PROCESS of a complete body: dropped, or acknowledged if it is a HELLO or DATA body (R197, R201). -/
theorem sound_process {ty : Byte} (h : CompleteBody ty s) (hp : process s = .next t) : Sound t := by
  unfold process at hp
  split at hp
  next => cases hp; exact sound_endProcess h.1 h.2.1
  split at hp
  next => cases hp
  next hknown =>
    have hu := completeBody_filterDuplicate (completeBody_matchAck (completeBody_capturePeer h))
    generalize filterDuplicate (matchAck (capturePeer s)) = u at hp hu
    obtain ⟨hregs, hdrv, hbody, hidx, hty⟩ := hu
    dsimp only at hp
    split at hp
    next => cases hp; exact sound_endProcess_deliver hregs hdrv
    next hack =>
      cases hp
      have htype : ty = Config.typeHello ∨ ty = Config.typeData := by
        rw [h.type] at hknown hack
        have hassigned := (knownType_iff ty).mp (by simpa using hknown)
        tauto
      exact sound_sendBytes _ hregs (afterOk_autoAck.mpr ⟨hbody, hidx, hty.symm ▸ htype⟩) hdrv

theorem RegistersOk.storeBody (h : RegistersOk s) (hbody : s.rxState = .readingBody) (b : Byte) :
    RegistersOk (storeBody b s) := by
  obtain ⟨hbitp, hpend, ⟨hbuf, hpay⟩, ⟨hlen, -⟩, hstamps⟩ := h
  exact ⟨hbitp, hpend, ⟨(List.length_set ..).trans hbuf, hpay⟩, ⟨hlen, fun hn => absurd hbody hn⟩, hstamps⟩

theorem sound_stepBody {b : Byte} (h : SoundAt .idle s) (hbody : s.rxState = .readingBody) (hb : stepBody b s = .next t) :
    Sound t := by
  obtain ⟨hregs, hopen, hdrv⟩ := h
  have hregs' := hregs.storeBody hbody b
  by_cases hlast : s.rxIdx + 1 = s.rxLen.toNat
  · rw [stepBody_last hlast] at hb
    exact sound_process ⟨hregs', hdrv, hbody, hlast, rfl⟩ hb
  · rw [stepBody_more hlast] at hb
    cases hb
    have hopen' : BodyOpen (storeBody b s) := fun _ => by
      have := hopen hbody
      show s.rxIdx + 1 < s.rxLen.toNat
      omega
    exact sound_retryTick ⟨hregs', hopen', hdrv⟩

theorem soundAt_stepStart (b : Byte) (h : SoundAt .idle s) (hs : s.rxState = .awaitingStart) :
    SoundAt .idle (stepStart b s) := by
  obtain ⟨⟨hbitp, hpend, harrays, ⟨-, hidx⟩, hstamps⟩, hopen, hdrv⟩ := h
  have hzero : s.rxIdx = 0 := hidx (by simp [hs])
  unfold stepStart
  split
  · exact ⟨⟨hbitp, hpend, harrays, ⟨nofun, fun _ => hzero⟩, hstamps⟩, nofun, hdrv⟩
  · exact ⟨⟨hbitp, hpend, harrays, ⟨fun hb => by simp [hs] at hb, hidx⟩, hstamps⟩, hopen, hdrv⟩

theorem soundAt_stepLength (b : Byte) (h : SoundAt .idle s) : SoundAt .idle (stepLength b s) := by
  obtain ⟨⟨hbitp, hpend, harrays, -, hstamps⟩, -, hdrv⟩ := h
  unfold stepLength
  split
  next hin =>
    obtain ⟨hlo, hhi⟩ := (lengthInRange_iff _ _).mp hin
    have hpos : 0 < b.toNat := by omega
    exact ⟨⟨hbitp, hpend, harrays, ⟨fun _ => ⟨hlo, hhi⟩, fun _ => rfl⟩, hstamps⟩, fun _ => hpos, hdrv⟩
  next => exact ⟨⟨hbitp, hpend, harrays, ⟨nofun, fun _ => rfl⟩, hstamps⟩, nofun, hdrv⟩

/-- FC.RXSTEP and the ticks after it (R174, R212). -/
theorem sound_received {b : Byte} (h : SoundAt .idle s) (hr : received b s = .next t) : Sound t := by
  obtain hs | hs | hs := rxState_cases s
  · rw [received_start hs] at hr
    cases hr
    exact sound_retryTick (soundAt_stepStart b h hs)
  · rw [received_length hs] at hr
    cases hr
    exact sound_retryTick (soundAt_stepLength b h)
  · rw [received_body hs] at hr
    exact sound_stepBody h hs hr

/-! ### One primitive step -/

theorem sound_idleStamp {tx : Tx} (h : SoundAt (.idleEnter tx) s) (d : Draw) : Sound (idleStamp tx d s) := by
  obtain ⟨hregs, ha, hdrv⟩ := h.tick d
  exact ⟨hregs, ha, hdrv, le_rfl⟩

theorem sound_rxBudget {again : Pos} (h : SoundAt again s) (hrest : AtRest s) (d : Draw) :
    Sound (rxBudget again d s) := by
  unfold rxBudget
  dsimp only
  split
  · exact sound_retryTick ⟨(h.tick d).1, hrest⟩
  · exact (h.tick d).goTo

/-- A choice between two positions. -/
theorem sound_choice {p q : Pos} (hp : SoundAt p s) (hq : SoundAt q s) (c : Bool) :
    Sound (if c then goTo p s else goTo q s) := by
  cases c
  · exact hq.goTo
  · exact hp.goTo

theorem sound_idleCheck {tx : Tx} (h : SoundAt (.idleCheck tx) s) (d : Draw) : Sound (idleCheck tx d s) := by
  have ht : SoundAt (.idleCheck tx) (tick d s) := h.tick d
  unfold idleCheck
  dsimp only
  split
  · exact sound_toCell ht.1 ht.2.1 tx.byte
  · exact ht

/-- The last cell of a byte is the released stop cell (R143). -/
theorem sound_cellPin {level : Bool} {later : List Bool} {tx : Tx} (h : SoundAt (.cellPin level later tx) s) (d : Draw) :
    Sound (cellPin level later tx d s) := by
  obtain ⟨hregs, ha, hlast⟩ := h.tick d
  cases later with
  | nil =>
    have hdrv : (!level) = false := by simpa using hlast
    exact ⟨hregs, ha, hdrv⟩
  | cons c later =>
    rw [List.getLast?_cons_cons] at hlast
    exact ⟨hregs, ha, hlast⟩

theorem sound_cellDelay {later : List Bool} {tx : Tx} (h : SoundAt (.cellDelay later tx) s) (d : Draw) :
    Sound (cellDelay later tx d s) := by
  have ht := h.delay s.bitp d
  cases later with
  | nil => exact sound_byteSent ht
  | cons c later => exact ht

theorem sound_rxEnter (h : SoundAt .rxEnter s) (d : Draw) : Sound (rxEnter d s) := by
  obtain ⟨hregs, hrest⟩ := h.tick d
  exact ⟨hregs, hrest, le_rfl⟩

theorem sound_rxRecheck (h : SoundAt .rxRecheck s) (d : Draw) : Sound (rxRecheck d s) := by
  have ht := h.tick d
  unfold rxRecheck
  dsimp only
  split
  · exact ht
  · exact ⟨ht.1, ht.2, Nat.zero_lt_succ 7⟩

theorem sound_rxTarget {i : Nat} (h : SoundAt (.rxTarget i) s) (d : Draw) : Sound (rxTarget i d s) := by
  have ht := h.tick d
  unfold rxTarget
  dsimp only
  split <;> exact ht

theorem sound_rxSample {i : Nat} {d : Draw} (h : SoundAt (.rxSample i) s) (hp : rxSample i d s = .next t) : Sound t := by
  obtain ⟨hregs, ⟨hrest, ht0⟩, -⟩ := h.tick d
  unfold rxSample at hp
  dsimp only at hp
  split at hp
  next =>
    refine sound_received ?_ hp
    exact ⟨hregs, hrest⟩
  next hi =>
    cases hp
    exact ⟨hregs, ⟨hrest, ht0⟩, by omega⟩

/-- Every primitive step leaves the block sound at the position it goes to. -/
theorem sound_primitive {d : Draw} (h : Sound s) (hp : primitive d s = .next t) : Sound t := by
  have h0 := h
  unfold Sound at h
  unfold primitive at hp
  generalize s.seq = p at h hp
  cases p with
  | idle => cases hp; exact h0
  | idleEnter tx => cases hp; exact sound_idleStamp h d
  | idleRead tx => cases hp; exact sound_choice (p := .idleCheck tx) (q := .idleLow tx) (h.tick d) (h.tick d) _
  | idleLow tx =>
    cases hp
    obtain ⟨hregs, hafter, hdrv, -⟩ := h
    exact sound_idleStamp ⟨hregs, hafter, hdrv⟩ d
  | idleCheck tx => cases hp; exact sound_idleCheck h d
  | cellPin level later tx => cases hp; exact sound_cellPin h d
  | cellDelay later tx => cases hp; exact sound_cellDelay h d
  | rxEnter => cases hp; exact sound_rxEnter h d
  | rxLeaveLow => cases hp; exact sound_choice (p := .rxWatch) (q := .rxLeaveLowBudget) (h.tick d) (h.tick d) _
  | rxLeaveLowBudget => cases hp; exact sound_rxBudget (again := .rxLeaveLow) h h.2.1 d
  | rxWatch => cases hp; exact sound_choice (p := .rxWatchBudget) (q := .rxEdge) (h.tick d) (h.tick d) _
  | rxWatchBudget => cases hp; exact sound_rxBudget (again := .rxWatch) h h.2.1 d
  | rxEdge => cases hp; exact h.tick d
  | rxGlitchDelay => cases hp; exact h.delay _ d
  | rxRecheck => cases hp; exact sound_rxRecheck h d
  | rxTarget i => cases hp; exact sound_rxTarget h d
  | rxTargetBudget i =>
    cases hp
    have hrest : AtRest s := h.2.1.1
    exact sound_rxBudget (again := .rxTarget i) h hrest d
  | rxSample i => exact sound_rxSample h hp
  | sendStamp id => cases hp; exact sound_fillSlot (h.tick d)
  | retryNow => cases hp; exact sound_retryDue (h.tick d)
  | retryStamp => cases hp; exact sound_retryStamped (h.tick d)
  | helloNow => cases hp; exact sound_helloDue (h.tick d)
  | helloStamp => cases hp; exact sound_helloStamped (h.tick d)

/-! ### Commands and steps -/

/-- The bytes of a frame, one after the other, from a block that is idle at its first one. -/
theorem invariant_receiveAll : ∀ {bytes : List Byte} {s t : State}, Sound s → s.seq = .idle →
    receiveAll bytes s = .next t → Invariant t
  | [], s, t, h, _, hr => by
    cases hr
    exact Sound.invariant (s := { s with feed := [] }) h.frame rfl
  | b :: rest, s, t, h, hs, hr => by
    rw [receiveAll_cons] at hr
    obtain ⟨u, hu, hr⟩ := andThen_eq_next hr
    have hsound : Sound u := sound_received (s := { s with feed := rest }) (h.soundAt hs) hu
    split at hr
    next hidle => exact invariant_receiveAll hsound ((isIdle_iff _).mp hidle) hr
    next hbusy => cases hr; exact (invariant_iff _).mpr ⟨hsound, fun hi => absurd ((isIdle_iff _).mpr hi) hbusy⟩

theorem invariant_advance {d : Draw} (h : Sound s) (ha : advance d s = .next t) : Invariant t := by
  obtain ⟨u, hu, ha⟩ := andThen_eq_next ha
  have hsound : Sound u := sound_primitive h hu
  split at ha
  next hidle => exact invariant_receiveAll hsound ((isIdle_iff _).mp hidle) ha
  next hbusy => cases ha; exact (invariant_iff _).mpr ⟨hsound, fun hi => absurd ((isIdle_iff _).mpr hi) hbusy⟩

theorem invariant_run : ∀ {ds : List Draw} {s t : State}, Invariant s → run ds s = .next t → Invariant t
  | [], s, t, h, hr => by cases hr; exact h.frame
  | d :: rest, s, t, h, hr => by
    by_cases hs : s.seq = .idle
    · rw [run_idle _ _ _ hs] at hr
      cases hr
      exact h.frame
    · rw [run_busy _ _ _ hs] at hr
      obtain ⟨u, hu, hr⟩ := andThen_eq_next hr
      exact invariant_run (invariant_advance h.sound hu) hr

theorem invariant_begin {o : Out} (ho : ∀ u, o = .next u → Invariant u) (h : begin o = .next t) : Invariant t := by
  obtain ⟨u, hu, h⟩ := andThen_eq_next h
  exact invariant_run (ho u hu) h

section Idle
variable (h : Invariant s) (hs : s.seq = .idle)
include h hs

theorem invariant_receiveFrame {bytes : List Byte} (hr : receiveFrame bytes s = .next t) : Invariant t :=
  invariant_begin (fun _ hu => invariant_receiveAll h.sound hs hu) hr

theorem feed_of_idle : s.feed = [] := ((invariant_iff s).mp h).2 hs

theorem invariant_poll (hp : execPoll s = .next t) : Invariant t := by
  have hidle : SoundAt .idle s := h.sound.soundAt hs
  have hfeed := feed_of_idle h hs
  refine invariant_begin (fun u hu => ?_) hp
  unfold rxStart at hu
  split at hu
  next => cases hu; exact Sound.invariant (s := goTo .rxEnter s) hidle hfeed
  next rest _ _ =>
    exact Sound.invariant (sound_received (s := { s with chanIn := rest }) hidle hu) ((received_feed hu).trans hfeed)
  next => cases hu; exact Sound.invariant (sound_retryTick hidle) ((retryTick_feed s).trans hfeed)

theorem invariant_init {hello : Bool} (hi : execInit hello s = .next t) : Invariant t := by
  unfold execInit at hi
  split at hi
  next =>
    refine invariant_begin (fun u hu => ?_) hi
    cases hu
    have hfeed : s.feed = [] := feed_of_idle h hs
    exact (sound_sendHello (h.sound.soundAt hs)).invariant ((sendBytes_feed _ _ (newId s)).trans hfeed)
  next => cases hi; exact h

theorem invariant_send {payload : List Byte} {len : Nat} {ack : Bool} (he : execSend payload len ack s = .next t) :
    Invariant t := by
  unfold execSend at he
  dsimp only at he
  split at he
  next => cases he
  next hbytes =>
    refine invariant_begin (fun u hu => ?_) he
    cases hu
    obtain ⟨hregs, hopen, hdrv⟩ := h.sound.soundAt hs
    have hafter : AfterOk (.send payload (clampLen s.straps len) s.nextId ack) (newId s) :=
      afterOk_send.mpr ⟨hopen, Nat.min_le_right .., Nat.not_lt.mp hbytes⟩
    have hfeed : s.feed = [] := feed_of_idle h hs
    exact (sound_sendBytes (s := newId s) _ hregs hafter hdrv).invariant ((sendBytes_feed _ _ (newId s)).trans hfeed)

end Idle

theorem clampBitp_bounds (p : Nat) : 300 ≤ clampBitp p ∧ clampBitp p ≤ 2000 := by
  unfold clampBitp Config.bitpMin Config.bitpMax
  split
  · omega
  · split <;> omega

theorem invariant_setq {level : Nat} (h : Invariant s) (he : execSetq level s = .next t) : Invariant t := by
  unfold execSetq at he
  split at he
  next => cases he
  next q _ =>
    cases he
    obtain ⟨⟨⟨-, hregs⟩, hpos⟩, hfeed⟩ := (invariant_iff s).mp h
    exact (invariant_iff _).mpr ⟨⟨⟨clampBitp_bounds _, hregs⟩, hpos.frame⟩, hfeed⟩

theorem invariant_exec {i : Instr} (h : Invariant s) (hs : s.seq = .idle) (he : exec i s = .next t) : Invariant t := by
  cases i with
  | byte => exact invariant_receiveFrame h hs he
  | hello => exact invariant_receiveFrame h hs he
  | data => exact invariant_receiveFrame h hs he
  | ack => exact invariant_receiveFrame h hs he
  | init => exact invariant_init h hs he
  | poll => exact invariant_poll h hs he
  | send => exact invariant_send h hs he
  | setq => exact invariant_setq h he
  | getpeerid =>
    simp only [exec, execGetpeerid] at he
    split at he <;> cases he <;> exact h.frame
  | sethandler | setackto | setmaxretry | sethelloint | getid | getpeerknown => cases he; exact h.frame

theorem invariant_resume (h : Invariant s) (hr : resume s = .next t) : Invariant t := by
  unfold resume at hr
  split at hr
  · exact invariant_run h.frame hr
  · exact invariant_run h hr

/-- Settles O49: R60 is kept position by position: at each supplier call by `sound_primitive`, at each byte received by
`sound_received`, and so by every command and every part of one. -/
theorem stepKeepsInvariant : Obligations.StepKeepsInvariant := by
  intro s t h hstep
  have hpop (rest : List Item) : Invariant { s with port := rest } := h.frame
  obtain ⟨-, -, rfl⟩ | ⟨_, rest, _, hr, -, -, he⟩ | ⟨_, rest, _, _, hr, -, -, hf⟩ | ⟨-, hr⟩ := step_cases hstep
  · exact h
  · exact invariant_exec (hpop rest) ((ready_iff s).mp hr) he
  · exact invariant_receiveFrame (hpop rest) ((ready_iff s).mp hr) hf
  · exact invariant_resume h hr

/-- Every register of the block has its reset value, an idle block's (R300, R301). -/
theorem invariant_powerUp (s : State) : Invariant (powerUp s) := by
  have hbitp : 300 ≤ qualityBitp s.straps.qualityReset ∧ qualityBitp s.straps.qualityReset ≤ 2000 := by
    cases s.straps.qualityReset <;> decide
  have hregs : RegistersOk (powerUp s) :=
    ⟨hbitp, nofun, ⟨List.length_replicate, List.length_replicate⟩, ⟨nofun, fun _ => rfl⟩, nofun, Nat.zero_le _⟩
  exact Sound.invariant ⟨hregs, nofun, rfl⟩ rfl

/-- Settles O48: the state after reset is the power-up of itself. -/
theorem powerUpEstablishesInvariant : Obligations.PowerUpEstablishesInvariant :=
  ⟨fun p => invariant_powerUp (State.resetWith p), invariant_powerUp⟩

/-! ### What no step undoes -/

/-- Settles O7: a busy block goes on with its command, and no part of a command touches the port. -/
theorem busyBlockAcceptsNothing : Obligations.BusyBlockAcceptsNothing := by
  intro s t hbusy hstep
  obtain ⟨hr, -, -⟩ | ⟨_, _, _, hr, -, -, -⟩ | ⟨_, _, _, _, hr, -, -, -⟩ | ⟨-, hr⟩ := step_cases hstep
  · simp [hbusy] at hr
  · simp [hbusy] at hr
  · simp [hbusy] at hr
  · exact (grows_resume hr).port

/-- What every step respects, configuration commands included: construction parameters stay (R20), flags are not cleared
(R26, R32, R33), clocks do not go back (R55, R56). -/
structure Endures (s t : State) : Prop where
  straps     : t.straps = s.straps
  micros     : s.micros ≤ t.micros
  millis     : s.millis ≤ t.millis
  readMillis : readMillis s ≤ readMillis t
  peerKnown  : s.peerKnown = true → t.peerKnown = true
  lastValid  : s.lastValid = true → t.lastValid = true
  handlerEn  : s.handlerEn = true → t.handlerEn = true

theorem Grows.endures (h : Grows s t) : Endures s t where
  straps := h.straps
  micros := h.micros
  millis := h.millis
  readMillis := h.readMillis
  peerKnown := h.peerKnown
  lastValid := h.lastValid
  handlerEn := fun he => h.handlerEn.trans he

theorem exec_endures {i : Instr} (h : exec i s = .next t) : Endures s t := by
  obtain hgrows | ⟨-, rfl⟩ | ⟨_, _, -, -, rfl⟩ | ⟨_, rfl⟩ | ⟨_, rfl⟩ | ⟨_, rfl⟩ := exec_cases h
  · exact hgrows.endures
  · exact ⟨rfl, le_rfl, le_rfl, le_rfl, id, id, fun _ => rfl⟩
  all_goals exact ⟨rfl, le_rfl, le_rfl, le_rfl, id, id, id⟩

/-- Accepting an item writes the port, which `Endures` does not see. -/
theorem Endures.of_accepted {rest : List Item} (h : Endures { s with port := rest } t) : Endures s t :=
  ⟨h.straps, h.micros, h.millis, h.readMillis, h.peerKnown, h.lastValid, h.handlerEn⟩

theorem step_endures (h : step s = .next t) : Endures s t := by
  obtain ⟨-, -, rfl⟩ | ⟨_, _, _, -, -, -, he⟩ | ⟨_, _, _, _, -, -, -, hf⟩ | ⟨-, hr⟩ := step_cases h
  · exact (Grows.refl t).endures
  · exact (exec_endures he).of_accepted
  · exact (grows_receiveFrame hf).endures.of_accepted
  · exact (grows_resume hr).endures

/-- Settles O51. -/
theorem constructionParametersNeverChange : Obligations.ConstructionParametersNeverChange :=
  fun _ _ h => (step_endures h).straps

/-- Settles O52. -/
theorem flagsAreNeverCleared : Obligations.FlagsAreNeverCleared :=
  fun _ _ h => have e := step_endures h
    ⟨e.peerKnown, e.lastValid, e.handlerEn⟩

/-- Settles O53. -/
theorem clocksNeverGoBack : Obligations.ClocksNeverGoBack :=
  fun _ _ h => have e := step_endures h
    ⟨e.micros, e.millis, e.readMillis⟩

/-! ### Who writes the bit period -/

/-- The table's bit periods are within the clamp (R140, R232). -/
theorem clampBitp_qualityBitp (q : Quality) : clampBitp (qualityBitp q) = qualityBitp q := by cases q <;> rfl

theorem qualityBitp_cases (q : Quality) :
    qualityBitp q = 300 ∨ qualityBitp q = 500 ∨ qualityBitp q = 800 ∨ qualityBitp q = 1200 := by
  cases q <;> decide

/-- An instruction that changes the bit period is a SETQ, and the period is the table's. -/
theorem exec_changes_bitp {i : Instr} (h : exec i s = .next t) (hne : t.bitp ≠ s.bitp) :
    ∃ level q, i = .setq level ∧ t.bitp = qualityBitp q := by
  obtain hgrows | ⟨-, rfl⟩ | ⟨level, q, hi, -, rfl⟩ | ⟨_, rfl⟩ | ⟨_, rfl⟩ | ⟨_, rfl⟩ := exec_cases h
  · exact absurd hgrows.bitp hne
  · exact absurd rfl hne
  · exact ⟨level, q, hi, clampBitp_qualityBitp q⟩
  all_goals exact absurd rfl hne

/-- Settles O54: of what a step can be, only an accepted instruction that is a SETQ writes `BITP`. -/
theorem bitPeriodComesFromTheTable : Obligations.BitPeriodComesFromTheTable := by
  intro s t hstep hne
  obtain ⟨-, -, rfl⟩ | ⟨item, rest, i, hr, hp, hd, he⟩ | ⟨_, _, _, _, -, -, -, hf⟩ | ⟨-, hr⟩ := step_cases hstep
  · exact absurd rfl hne
  · obtain ⟨level, q, rfl, hq⟩ := exec_changes_bitp he hne
    exact ⟨hq ▸ qualityBitp_cases q, item, rest, level, hr, hp, hd⟩
  · exact absurd (grows_receiveFrame hf).bitp hne
  · exact absurd (grows_resume hr).bitp hne

/-! ### Reset values, GETPEERID, the line -/

/-- SETQ with the level that is in force already changes nothing. -/
theorem execSetq_of_same_level {level : Nat} {q : Quality} (hq : qualityOfLevel level = some q)
    (hbitp : s.bitp = qualityBitp q) (hack : s.ackTo = ackToOf (qualityBitp q)) : exec (.setq level) s = .next s := by
  show execSetq level s = .next s
  simp only [execSetq, hq, setBitp, clampBitp_qualityBitp]
  rw [← hack, ← hbitp]

/-- Settles O50: the values are the definition's; `BITP` and `ACKTO` are those of SETQ at the reset level (D21). -/
theorem resetLeavesTheStatedValues : Obligations.ResetLeavesTheStatedValues := by
  intro p
  refine ⟨rfl, rfl, rfl, rfl, rfl, rfl, rfl, rfl, rfl, rfl, rfl, rfl, rfl, rfl, ?_⟩
  rintro level q hq rfl
  exact execSetq_of_same_level hq rfl rfl

theorem exec_getpeerid_of_known (h : s.peerKnown = true) : exec .getpeerid s = .next (respond (.byte s.peerId) s) :=
  if_pos h

theorem exec_getpeerid_of_unknown (h : s.peerKnown = false) :
    exec .getpeerid s =
      .next (respond (.byte (Config.freePeerId s.freeCtr)) { s with freeCtr := s.freeCtr + 1 }) := by
  simp only [exec, execGetpeerid, h, Bool.false_eq_true, if_false]

/-- Settles O47: one case for each value of `PEERKNOWN`. -/
theorem peerIdRespondsOnceKnown : Obligations.PeerIdRespondsOnceKnown := by
  intro s
  by_cases hk : s.peerKnown = true
  · exact ⟨s.peerId, s.freeCtr, exec_getpeerid_of_known hk, fun _ => ⟨rfl, rfl⟩⟩
  · exact ⟨_, _, exec_getpeerid_of_unknown (Bool.eq_false_iff.mpr hk), fun h => absurd h hk⟩

/-- What the near device reads is the line (R58). -/
theorem lineHigh_drawFor (us ms : Nat) (noise : Bool) (l : Link) :
    lineHigh (l.drawFor us ms noise) l.near = l.lineHigh noise := by
  simp [lineHigh, Link.drawFor, Link.lineHigh, Bool.and_assoc]

/-- The line is the same from both ends (R283). -/
theorem lineHigh_swap (noise : Bool) (l : Link) : l.swap.lineHigh noise = l.lineHigh noise := by
  simp only [Link.lineHigh, Link.swap, Bool.and_comm (!l.near.drv)]

theorem Link.lineHigh_iff (noise : Bool) (l : Link) :
    l.lineHigh noise = true ↔ l.near.drv = false ∧ l.far.drv = false ∧ noise = false := by
  simp [Link.lineHigh, and_assoc]

/-- Settles O59: the far device's read is the near one's of the swapped link. -/
theorem lineIsWiredAnd : Obligations.LineIsWiredAnd := fun us ms noise l =>
  ⟨lineHigh_drawFor us ms noise l, (lineHigh_drawFor us ms noise l.swap).trans (lineHigh_swap noise l),
    l.lineHigh_iff noise⟩

/-! ### Phases of a command

The pending slot, the id generator and the handler are written at few of the positions, so positions are taken together. -/

/-- What the command being run is at (R46): inside BT.RXBYTE, inside FC.TXFRAME for a caller, or at one clock read. -/
inductive Phase where
  | idle
  | listening
  | sending (after : After)
  | sendStamp
  | retryNow
  | retryStamp
  | helloNow
  | helloStamp

def Pos.phase : Pos → Phase
  | .idle => .idle
  | .idleEnter tx | .idleRead tx | .idleLow tx | .idleCheck tx | .cellPin _ _ tx | .cellDelay _ tx => .sending tx.after
  | .rxEnter | .rxLeaveLow | .rxLeaveLowBudget | .rxWatch | .rxWatchBudget | .rxEdge | .rxGlitchDelay | .rxRecheck
  | .rxTarget _ | .rxTargetBudget _ | .rxSample _ => .listening
  | .sendStamp _ => .sendStamp
  | .retryNow => .retryNow
  | .retryStamp => .retryStamp
  | .helloNow => .helloNow
  | .helloStamp => .helloStamp

/-- A SEND that asks for an acknowledgment (R206). -/
def After.claims : After → Bool
  | .send _ _ _ ack => ack
  | _ => false

/-- The command may still make the pending slot active (R34). -/
def Phase.claims : Phase → Bool
  | .sending a => a.claims
  | .sendStamp => true
  | _ => false

/-- The command may draw an id for a HELLO, or is sending one (R209, R210). -/
def Phase.announces : Phase → Bool
  | .helloNow | .helloStamp | .sending .hello => true
  | _ => false

/-- The POLL may still raise its event (R196). -/
def Phase.mayDeliver : Phase → Bool
  | .listening | .sending .autoAck => true
  | _ => false

/-- The registers the phases are about besides the slot, and what no procedure of a POLL writes. -/
def State.watched (s : State) : Byte × Nat × List Event × Nat × List Byte :=
  (s.nextId, s.lastHello, s.events, s.helloInt, s.feed)

/-- Nothing the phases are about has moved, but that the slot may have been released. -/
structure Alike (s u : State) : Prop where
  active  : u.pend.active = true → s.pend.active = true
  watched : u.watched = s.watched

theorem Alike.trans {u : State} (h : Alike s t) (k : Alike t u) : Alike s u :=
  ⟨h.active ∘ k.active, k.watched.trans h.watched⟩

section Alike
variable {u : State} (h : Alike s u)
include h

theorem Alike.nextId : u.nextId = s.nextId := congrArg (·.1) h.watched
theorem Alike.lastHello : u.lastHello = s.lastHello := congrArg (·.2.1) h.watched
theorem Alike.events : u.events = s.events := congrArg (·.2.2.1) h.watched
theorem Alike.helloInt : u.helloInt = s.helloInt := congrArg (·.2.2.2.1) h.watched
theorem Alike.feed : u.feed = s.feed := congrArg (·.2.2.2.2) h.watched

end Alike

/-- What a primitive step can do, by the phase it begins in: go on in that phase, or reach what follows it. -/
inductive PhaseStep (s t : State) : Phase → Prop
  | stays {p : Phase} (same : Alike s t) (phase : t.seq.phase = p) : PhaseStep s t p
  | timeout {u : State} (same : Alike s u) (next : t = retryTick u) : PhaseStep s t .listening
  | heard {b : Byte} {u : State} (same : Alike s u) (next : received b u = .next t) : PhaseStep s t .listening
  | sent {a : After} {u : State} (same : Alike s u) (next : t = frameSent a u) : PhaseStep s t (.sending a)
  | sendStamp {id : Byte} {u : State} (same : Alike s u) (next : t = fillSlot id u) : PhaseStep s t .sendStamp
  | retryNow {u : State} (same : Alike s u) (next : t = retryDue u) : PhaseStep s t .retryNow
  | retryStamp {u : State} (same : Alike s u) (next : t = retryStamped u) : PhaseStep s t .retryStamp
  | helloNow {u : State} (same : Alike s u) (next : t = helloDue u) : PhaseStep s t .helloNow
  | helloStamp {u : State} (same : Alike s u) (next : t = helloStamped u) : PhaseStep s t .helloStamp

theorem alike_tick (d : Draw) (s : State) : Alike s (tick d s) := ⟨id, rfl⟩

theorem phaseStep_choice {ph : Phase} (d : Draw) (c : Bool) {p q : Pos} (hp : p.phase = ph) (hq : q.phase = ph) :
    PhaseStep s (if c then goTo p (tick d s) else goTo q (tick d s)) ph := by
  cases c
  · exact .stays ⟨id, rfl⟩ hq
  · exact .stays ⟨id, rfl⟩ hp

theorem phaseStep_idleCheck (tx : Tx) (d : Draw) (s : State) : PhaseStep s (idleCheck tx d s) (.sending tx.after) := by
  unfold idleCheck
  dsimp only
  split
  · rw [toCell_cellsOfByte]
    exact .stays ⟨id, rfl⟩ rfl
  · exact .stays ⟨id, rfl⟩ rfl

theorem phaseStep_cellDelay (later : List Bool) (tx : Tx) (d : Draw) (s : State) :
    PhaseStep s (cellDelay later tx d s) (.sending tx.after) := by
  cases later with
  | cons c later => exact .stays ⟨id, rfl⟩ rfl
  | nil =>
    obtain ⟨b, rest, after⟩ := tx
    cases rest with
    | cons c rest => exact .stays ⟨id, rfl⟩ rfl
    | nil => exact .sent (u := { delay s.bitp d s with txBytes := s.txBytes ++ [b] }) ⟨id, rfl⟩ rfl

theorem phaseStep_rxBudget {again : Pos} (h : again.phase = .listening) (d : Draw) (s : State) :
    PhaseStep s (rxBudget again d s) .listening := by
  unfold rxBudget
  dsimp only
  split
  · exact .timeout (alike_tick d s) rfl
  · exact .stays ⟨id, rfl⟩ h

theorem phaseStep_rxRecheck (d : Draw) (s : State) : PhaseStep s (rxRecheck d s) .listening := by
  unfold rxRecheck
  dsimp only
  split <;> exact .stays ⟨id, rfl⟩ rfl

theorem phaseStep_rxTarget (i : Nat) (d : Draw) (s : State) : PhaseStep s (rxTarget i d s) .listening := by
  unfold rxTarget
  dsimp only
  split <;> exact .stays ⟨id, rfl⟩ rfl

theorem phaseStep_rxSample {i : Nat} {d : Draw} (h : rxSample i d s = .next t) : PhaseStep s t .listening := by
  unfold rxSample at h
  dsimp only at h
  split at h
  · refine .heard ?_ h
    exact ⟨id, rfl⟩
  · cases h
    exact .stays ⟨id, rfl⟩ rfl

/-- Inversion of a primitive step by phase. -/
theorem primitive_phaseStep {d : Draw} (h : primitive d s = .next t) : PhaseStep s t s.seq.phase := by
  unfold primitive at h
  cases hs : s.seq with rw [hs] at h
  | idle => cases h; exact .stays ⟨id, rfl⟩ (congrArg Pos.phase hs)
  | idleEnter tx | idleLow tx | cellPin level later tx => cases h; exact .stays ⟨id, rfl⟩ rfl
  | idleRead tx => cases h; exact phaseStep_choice d _ (p := .idleCheck tx) (q := .idleLow tx) rfl rfl
  | idleCheck tx => cases h; exact phaseStep_idleCheck tx d s
  | cellDelay later tx => cases h; exact phaseStep_cellDelay later tx d s
  | rxEnter | rxEdge | rxGlitchDelay => cases h; exact .stays ⟨id, rfl⟩ rfl
  | rxLeaveLow => cases h; exact phaseStep_choice d _ (p := .rxWatch) (q := .rxLeaveLowBudget) rfl rfl
  | rxWatch => cases h; exact phaseStep_choice d _ (p := .rxWatchBudget) (q := .rxEdge) rfl rfl
  | rxLeaveLowBudget | rxWatchBudget | rxTargetBudget => cases h; exact phaseStep_rxBudget rfl d s
  | rxRecheck => cases h; exact phaseStep_rxRecheck d s
  | rxTarget i => cases h; exact phaseStep_rxTarget i d s
  | rxSample => exact phaseStep_rxSample h
  | sendStamp => cases h; exact .sendStamp (alike_tick d s) rfl
  | retryNow => cases h; exact .retryNow (alike_tick d s) rfl
  | retryStamp => cases h; exact .retryStamp (alike_tick d s) rfl
  | helloNow => cases h; exact .helloNow (alike_tick d s) rfl
  | helloStamp => cases h; exact .helloStamp (alike_tick d s) rfl

/-! ### What the procedures of a POLL leave -/

/-- What a procedure of a POLL leaves, wherever it was called: it makes no slot active and claims none (R34); with periodic
HELLO off it draws no id (R201, R205, R207); it raises no event, or the POLL's one event (R276). -/
structure PollPart (s t : State) : Prop where
  active   : t.pend.active = true → s.pend.active = true
  claims   : t.seq.phase.claims = false
  ids      : s.helloInt = 0 → t.seq.phase.announces = false ∧ t.nextId = s.nextId ∧ t.lastHello = s.lastHello
  helloInt : t.helloInt = s.helloInt
  feed     : t.feed = s.feed
  events   : t.events = s.events ∨ t.seq.phase.mayDeliver = false ∧ ∃ e, t.events = s.events ++ [e]

/-- A procedure behind the delivery: the event is raised already, or there is none. -/
structure TickPart (s t : State) : Prop extends PollPart s t where
  silent     : t.events = s.events
  mayDeliver : t.seq.phase.mayDeliver = false

theorem PollPart.of_alike {u : State} (h : PollPart u t) (hu : Alike s u) : PollPart s t where
  active := hu.active ∘ h.active
  claims := h.claims
  ids := hu.nextId ▸ hu.lastHello ▸ hu.helloInt ▸ h.ids
  helloInt := h.helloInt.trans hu.helloInt
  feed := h.feed.trans hu.feed
  events := hu.events ▸ h.events

theorem TickPart.of_alike {u : State} (h : TickPart u t) (hu : Alike s u) : TickPart s t :=
  ⟨h.toPollPart.of_alike hu, h.silent.trans hu.events, h.mayDeliver⟩

theorem TickPart.of_goTo {p : Pos} (hclaims : p.phase.claims = false) (hdeliver : p.phase.mayDeliver = false)
    (hids : s.helloInt = 0 → p.phase.announces = false) : TickPart s (goTo p s) :=
  ⟨⟨id, hclaims, fun hz => ⟨hids hz, rfl, rfl⟩, rfl, rfl, .inl rfl⟩, rfl, hdeliver⟩

theorem tickPart_helloTick (s : State) : TickPart s (helloTick s) := by
  unfold helloTick
  split
  next => exact .of_goTo rfl rfl (fun _ => rfl)
  next hz => exact .of_goTo rfl rfl (fun h => absurd h hz)

theorem tickPart_retryTick (s : State) : TickPart s (retryTick s) := by
  unfold retryTick
  split
  next => exact .of_goTo rfl rfl (fun _ => rfl)
  next => exact tickPart_helloTick s

theorem tickPart_endProcess (s : State) : TickPart s (endProcess s) := (tickPart_retryTick (resetReassembly s)).of_alike ⟨id, rfl⟩

/-- PE.PROCESS steps 6 and 7 raise at most one event (R202, R203). -/
theorem deliver_cases (s : State) : deliver s = s ∨ ∃ e, deliver s = raiseEvent e s := by
  unfold deliver
  split
  · exact .inl rfl
  · split
    · exact .inr ⟨_, rfl⟩
    · exact .inl rfl

theorem pollPart_endProcess_deliver (s : State) : PollPart s (endProcess (deliver s)) := by
  obtain h | ⟨e, h⟩ := deliver_cases s
  · rw [h]
    exact (tickPart_endProcess s).toPollPart
  · rw [h]
    obtain ⟨⟨active, claims, ids, helloInt, feed, -⟩, silent, mayDeliver⟩ := tickPart_endProcess (raiseEvent e s)
    exact ⟨active, claims, ids, helloInt, feed, .inr ⟨mayDeliver, e, silent⟩⟩

/-- FC.TXFRAME is under way for its caller, or has returned to it (R171). -/
theorem sendBytes_cases (x : List Byte) (a : After) (s : State) :
    (∃ p : Pos, p.phase = .sending a ∧ sendBytes x a s = goTo p s) ∨
      ∃ sent, sendBytes x a s = frameSent a { s with txBytes := sent } := by
  unfold sendBytes
  split
  · exact .inr ⟨_, rfl⟩
  · exact .inl ⟨_, rfl, rfl⟩
  · exact .inr ⟨s.txBytes, rfl⟩

theorem pollPart_autoAck (x : List Byte) (s : State) : PollPart s (sendBytes x .autoAck s) := by
  obtain ⟨p, hp, h⟩ | ⟨sent, h⟩ := sendBytes_cases x .autoAck s
  · rw [h]
    refine ⟨id, ?_, fun _ => ⟨?_, rfl, rfl⟩, rfl, rfl, .inl rfl⟩ <;> rw [goTo_seq, hp] <;> rfl
  · rw [h]
    exact (pollPart_endProcess_deliver { s with txBytes := sent }).of_alike ⟨id, rfl⟩

theorem tickPart_retry (x : List Byte) (s : State) : TickPart s (sendBytes x .retry s) := by
  obtain ⟨p, hp, h⟩ | ⟨sent, h⟩ := sendBytes_cases x .retry s
  · rw [h]
    exact .of_goTo (by rw [hp]; rfl) (by rw [hp]; rfl) (fun _ => by rw [hp]; rfl)
  · rw [h]
    exact (TickPart.of_goTo (s := { s with txBytes := sent }) (p := .retryStamp) rfl rfl (fun _ => rfl)).of_alike ⟨id, rfl⟩

theorem tickPart_retryDue (s : State) : TickPart s (retryDue s) := by
  have hretry (x : List Byte) (n : Nat) : TickPart s (sendBytes x .retry { s with pend := { s.pend with retries := n } }) :=
    (tickPart_retry x _).of_alike ⟨id, rfl⟩
  have hrelease : TickPart s (helloTick (releaseSlot s)) := (tickPart_helloTick (releaseSlot s)).of_alike ⟨nofun, rfl⟩
  unfold retryDue
  split
  · split
    · exact hretry _ _
    · exact hrelease
  · exact tickPart_helloTick s

theorem tickPart_retryStamped (s : State) : TickPart s (retryStamped s) :=
  (tickPart_helloTick { s with pend := { s.pend with lastMs := readMillis s } }).of_alike ⟨id, rfl⟩

/-! ### PE.PROCESS and FC.RXSTEP -/

theorem alike_capturePeer (s : State) : Alike s (capturePeer s) := by
  unfold capturePeer
  split <;> exact ⟨id, rfl⟩

theorem alike_matchAck (s : State) : Alike s (matchAck s) := by
  unfold matchAck
  split
  · exact ⟨nofun, rfl⟩
  · exact ⟨id, rfl⟩

theorem alike_filterDuplicate (s : State) : Alike s (filterDuplicate s) := by
  unfold filterDuplicate
  split
  · split <;> exact ⟨id, rfl⟩
  · exact ⟨id, rfl⟩

theorem pollPart_process (h : process s = .next t) : PollPart s t := by
  have hu := ((alike_capturePeer s).trans (alike_matchAck _)).trans (alike_filterDuplicate _)
  unfold process at h
  generalize filterDuplicate (matchAck (capturePeer s)) = u at h hu
  split at h
  · cases h; exact (tickPart_endProcess s).toPollPart
  split at h
  · cases h
  dsimp only at h
  split at h
  · cases h; exact (pollPart_endProcess_deliver u).of_alike hu
  · cases h; exact (pollPart_autoAck _ u).of_alike hu

theorem alike_stepStart (b : Byte) (s : State) : Alike s (stepStart b s) := by
  unfold stepStart
  split <;> exact ⟨id, rfl⟩

theorem alike_stepLength (b : Byte) (s : State) : Alike s (stepLength b s) := by
  unfold stepLength
  split <;> exact ⟨id, rfl⟩

theorem alike_storeBody (b : Byte) (s : State) : Alike s (storeBody b s) := ⟨id, rfl⟩

/-- A byte received is a part of a POLL, whatever position it was received at. -/
theorem pollPart_received {b : Byte} (h : received b s = .next t) : PollPart s t := by
  obtain hs | hs | hs := rxState_cases s
  · rw [received_start hs] at h
    cases h
    exact (tickPart_retryTick _).toPollPart.of_alike (alike_stepStart b s)
  · rw [received_length hs] at h
    cases h
    exact (tickPart_retryTick _).toPollPart.of_alike (alike_stepLength b s)
  · rw [received_body hs] at h
    by_cases hlast : s.rxIdx + 1 = s.rxLen.toNat
    · rw [stepBody_last hlast] at h
      exact (pollPart_process h).of_alike (alike_storeBody b s)
    · rw [stepBody_more hlast] at h
      cases h
      exact (tickPart_retryTick _).toPollPart.of_alike (alike_storeBody b s)

theorem pollPart_rxStart (h : rxStart s = .next t) : PollPart s t := by
  unfold rxStart at h
  split at h
  · cases h; exact ⟨id, rfl, fun _ => ⟨rfl, rfl, rfl⟩, rfl, rfl, .inl rfl⟩
  · exact (pollPart_received h).of_alike ⟨id, rfl⟩
  · cases h; exact (tickPart_retryTick s).toPollPart

/-! ### What follows the frames of SEND and HELLO -/

/-- SEND behind its frame only goes to its time stamp, and there only if it asks for an acknowledgment (R206). -/
theorem frameSent_send (payload : List Byte) (len : Nat) (id : Byte) (ack : Bool) (s : State) :
    let t := frameSent (.send payload len id ack) s
    Alike s t ∧ t.seq.phase.announces = false ∧ t.seq.phase.mayDeliver = false ∧
      (ack = false → t.seq.phase.claims = false) := by
  unfold frameSent
  dsimp only
  split
  next hclaims =>
    refine ⟨⟨fun h => h, rfl⟩, rfl, rfl, ?_⟩
    rintro rfl
    cases hclaims
  next => exact ⟨⟨fun h => h, rfl⟩, rfl, rfl, fun _ => rfl⟩

theorem tickPart_frameSent_retry (s : State) : TickPart s (frameSent .retry s) := .of_goTo rfl rfl (fun _ => rfl)

/-- What PE.HELLOTICK leaves, with or without a HELLO (R209, R210): the slot, the events and the bytes still to come as
they were, and a position that touches neither. -/
structure HelloPart (s t : State) : Prop where
  pend       : t.pend = s.pend
  events     : t.events = s.events
  feed       : t.feed = s.feed
  claims     : t.seq.phase.claims = false
  mayDeliver : t.seq.phase.mayDeliver = false

theorem helloPart_sendHello (s : State) : HelloPart s (sendHello s) := by
  unfold sendHello txFrame
  obtain ⟨p, hp, h⟩ | ⟨sent, h⟩ := sendBytes_cases
    (encodeFrame (newId s).straps Config.typeHello s.nextId [s.straps.devId] 1) .hello (newId s)
  · rw [h]
    exact ⟨rfl, rfl, rfl, by rw [goTo_seq, hp]; rfl, by rw [goTo_seq, hp]; rfl⟩
  · rw [h]
    exact ⟨rfl, rfl, rfl, rfl, rfl⟩

theorem helloPart_helloDue (s : State) : HelloPart s (helloDue s) := by
  unfold helloDue
  split
  · exact helloPart_sendHello s
  · exact ⟨rfl, rfl, rfl, rfl, rfl⟩

/-! ### Only SEND claims the slot (R34) -/

/-- The slot is free, and the command being run will not claim it. -/
def SlotFree (s : State) : Prop := s.pend.active = false ∧ s.seq.phase.claims = false

theorem inactive_of_imp (h : t.pend.active = true → s.pend.active = true) (hfree : s.pend.active = false) :
    t.pend.active = false := Bool.eq_false_iff.mpr fun ha => Bool.eq_false_iff.mp hfree (h ha)

theorem Alike.free {u : State} (h : Alike s u) (hfree : s.pend.active = false) : u.pend.active = false := inactive_of_imp h.active hfree

theorem PollPart.slotFree (h : PollPart s t) (hfree : s.pend.active = false) : SlotFree t :=
  ⟨inactive_of_imp h.active hfree, h.claims⟩

theorem slotFree_frameSent {a : After} (hfree : s.pend.active = false) (ha : a.claims = false) :
    SlotFree (frameSent a s) := by
  cases a with
  | send payload len id ack =>
    obtain ⟨hsame, -, -, hclaims⟩ := frameSent_send payload len id ack s
    exact ⟨hsame.free hfree, hclaims ha⟩
  | autoAck => exact (pollPart_endProcess_deliver s).slotFree hfree
  | retry => exact (tickPart_frameSent_retry s).slotFree hfree
  | hello => exact ⟨hfree, rfl⟩

theorem slotFree_sendBytes {a : After} (x : List Byte) (hfree : s.pend.active = false) (ha : a.claims = false) :
    SlotFree (sendBytes x a s) := by
  obtain ⟨p, hp, h⟩ | ⟨sent, h⟩ := sendBytes_cases x a s
  · rw [h]
    exact ⟨hfree, by rw [goTo_seq, hp]; exact ha⟩
  · rw [h]
    exact slotFree_frameSent (s := { s with txBytes := sent }) hfree ha

theorem slotFree_primitive {d : Draw} (hs : SlotFree s) (h : primitive d s = .next t) : SlotFree t := by
  obtain ⟨hfree, hclaims⟩ := hs
  have hstep := primitive_phaseStep h
  generalize s.seq.phase = ph at hstep hclaims
  cases hstep with
  | stays same phase => exact ⟨same.free hfree, phase ▸ hclaims⟩
  | timeout same next => exact next ▸ (tickPart_retryTick _).slotFree (same.free hfree)
  | heard same next => exact (pollPart_received next).slotFree (same.free hfree)
  | sent same next => exact next ▸ slotFree_frameSent (same.free hfree) hclaims
  | sendStamp => cases hclaims
  | retryNow same next => exact next ▸ (tickPart_retryDue _).slotFree (same.free hfree)
  | retryStamp same next => exact next ▸ (tickPart_retryStamped _).slotFree (same.free hfree)
  | @helloNow u same next =>
    have hpart := helloPart_helloDue u
    exact next ▸ ⟨hpart.pend ▸ same.free hfree, hpart.claims⟩
  | helloStamp same next => exact next ▸ ⟨same.free hfree, rfl⟩

theorem slotFree_run {ds : List Draw} (hs : SlotFree s) (h : run ds s = .next t) : SlotFree t :=
  run_rel (R := fun s t => SlotFree s → SlotFree t) (fun _ => id) (fun _ _ _ h k => k ∘ h) (fun _ _ => id) (fun _ _ => id)
    (fun _ _ _ hr hs => (pollPart_received hr).slotFree hs.1) (fun _ _ _ hp hs => slotFree_primitive hs hp) ds s t h hs

theorem slotFree_receiveAll {bytes : List Byte} (hs : SlotFree s) (h : receiveAll bytes s = .next t) : SlotFree t :=
  receiveAll_rel (R := fun s t => SlotFree s → SlotFree t) (fun _ => id) (fun _ _ _ h k => k ∘ h) (fun _ _ => id)
    (fun _ _ _ hr hs => (pollPart_received hr).slotFree hs.1) bytes s t h hs

theorem slotFree_begin {o : Out} (ho : ∀ u, o = .next u → SlotFree u) (h : begin o = .next t) : SlotFree t := by
  obtain ⟨u, hu, h⟩ := andThen_eq_next h
  exact slotFree_run (ho u hu) h

theorem slotFree_receiveFrame {bytes : List Byte} (hs : SlotFree s) (h : receiveFrame bytes s = .next t) : SlotFree t :=
  slotFree_begin (fun _ hu => slotFree_receiveAll hs hu) h

theorem slotFree_resume (hs : SlotFree s) (h : resume s = .next t) : SlotFree t := by
  unfold resume at h
  split at h
  · exact slotFree_run (s := { s with freeCtr := s.freeCtr + 1 }) hs h
  · exact slotFree_run hs h

theorem slotFree_init {hello : Bool} (hs : SlotFree s) (h : execInit hello s = .next t) : SlotFree t := by
  unfold execInit at h
  split at h
  · refine slotFree_begin (fun u hu => ?_) h
    cases hu
    have hpart := helloPart_sendHello s
    exact ⟨hpart.pend ▸ hs.1, hpart.claims⟩
  · cases h; exact hs

theorem slotFree_send {payload : List Byte} {len : Nat} (hs : SlotFree s) (h : execSend payload len false s = .next t) :
    SlotFree t := by
  unfold execSend at h
  dsimp only at h
  split at h
  · cases h
  · refine slotFree_begin (fun u hu => ?_) h
    cases hu
    exact slotFree_sendBytes (s := newId s) _ hs.1 rfl

/-- An instruction other than a SEND that asks for an acknowledgment leaves a free slot free. -/
theorem slotFree_exec {i : Instr} (hs : SlotFree s) (hi : ∀ payload len, i ≠ .send payload len true)
    (h : exec i s = .next t) : SlotFree t := by
  cases i with
  | byte => exact slotFree_receiveFrame hs h
  | hello => exact slotFree_receiveFrame hs h
  | data => exact slotFree_receiveFrame hs h
  | ack => exact slotFree_receiveFrame hs h
  | init => exact slotFree_init hs h
  | poll => exact slotFree_begin (fun _ hu => (pollPart_rxStart hu).slotFree hs.1) h
  | send payload len ack =>
    cases ack with
    | true => exact absurd rfl (hi payload len)
    | false => exact slotFree_send hs h
  | setq =>
    simp only [exec, execSetq] at h
    split at h <;> cases h
    exact hs
  | getpeerid =>
    simp only [exec, execGetpeerid] at h
    split at h <;> cases h <;> exact hs
  | sethandler | setackto | setmaxretry | sethelloint | getid | getpeerknown => cases h; exact hs

/-- Where a command claims the slot: in the frame of a SEND that asks for an acknowledgment, or at its time stamp. -/
theorem claims_iff (p : Pos) : p.phase.claims = true ↔
    (∃ tx payload len id, p.tx? = some tx ∧ tx.after = .send payload len id true) ∨ ∃ id, p = .sendStamp id := by
  have hafter (a : After) : a.claims = true ↔ ∃ payload len id, a = .send payload len id true := by
    cases a <;> simp [After.claims]
  cases p <;> simp [Pos.phase, Phase.claims, Pos.tx?, hafter]

/-- Settles O55: wherever the slot is free and none of the three cases holds, it stays free to the end of the step. -/
theorem onlySendClaimsTheSlot : Obligations.OnlySendClaimsTheSlot := by
  intro s t hstep hfree hactive
  have hclaimed : ¬ SlotFree t := fun h => by simp [h.1] at hactive
  have hidle (hr : ready s = true) (rest : List Item) : SlotFree { s with port := rest } := by
    refine ⟨hfree, ?_⟩
    rw [(ready_iff s).mp hr]
    rfl
  obtain ⟨-, -, rfl⟩ | ⟨item, rest, i, hr, hp, hd, he⟩ | ⟨_, rest, _, _, hr, -, -, hf⟩ | ⟨-, hr⟩ := step_cases hstep
  · simp [hfree] at hactive
  · by_cases hi : ∃ payload len, i = .send payload len true
    · obtain ⟨payload, len, rfl⟩ := hi
      exact .inl ⟨item, rest, payload, len, hr, hp, hd⟩
    · exact absurd (slotFree_exec (hidle hr rest) (fun p l h => hi ⟨p, l, h⟩) he) hclaimed
  · exact absurd (slotFree_receiveFrame (hidle hr rest) hf) hclaimed
  · by_cases hclaims : s.seq.phase.claims = true
    · exact .inr ((claims_iff _).mp hclaims)
    · exact absurd (slotFree_resume ⟨hfree, by simpa using hclaims⟩ hr) hclaimed

/-! ### Receiving draws no id (R31, R201, R205) -/

/-- Periodic HELLO is off, and no HELLO is under way. -/
def Quiet (s : State) : Prop := s.helloInt = 0 ∧ s.seq.phase.announces = false

/-- From a quiet block on, no id is drawn and no HELLO sent. -/
def KeepsIds (s t : State) : Prop := Quiet s → Quiet t ∧ t.nextId = s.nextId ∧ t.lastHello = s.lastHello

theorem KeepsIds.refl (s : State) : KeepsIds s s := fun h => ⟨h, rfl, rfl⟩

theorem KeepsIds.trans {u : State} (h : KeepsIds s t) (k : KeepsIds t u) : KeepsIds s u := by
  intro hs
  obtain ⟨ht, hid, hhello⟩ := h hs
  obtain ⟨hu, hid', hhello'⟩ := k ht
  exact ⟨hu, hid'.trans hid, hhello'.trans hhello⟩

/-- A part of a POLL leaves the block quiet, wherever it was called. -/
theorem PollPart.quiet (h : PollPart s t) (hz : s.helloInt = 0) :
    Quiet t ∧ t.nextId = s.nextId ∧ t.lastHello = s.lastHello := by
  obtain ⟨hannounces, hid, hhello⟩ := h.ids hz
  exact ⟨⟨h.helloInt.trans hz, hannounces⟩, hid, hhello⟩

theorem PollPart.keepsIds (h : PollPart s t) : KeepsIds s t := fun hs => h.quiet hs.1

theorem Alike.keepsIds {u : State} (h : Alike s u) (hp : u.seq.phase.announces = false) : KeepsIds s u :=
  fun hs => ⟨⟨h.helloInt.trans hs.1, hp⟩, h.nextId, h.lastHello⟩

theorem keepsIds_primitive {d : Draw} (h : primitive d s = .next t) : KeepsIds s t := by
  intro hs
  have hstep := primitive_phaseStep h
  have hannounces := hs.2
  generalize s.seq.phase = ph at hstep hannounces
  cases hstep with
  | stays same phase => exact same.keepsIds (phase ▸ hannounces) hs
  | timeout same next => exact next ▸ ((tickPart_retryTick _).toPollPart.of_alike same).keepsIds hs
  | heard same next => exact ((pollPart_received next).of_alike same).keepsIds hs
  | @sent a u same next =>
    cases a with
    | send payload len id ack =>
      obtain ⟨hsame, hannounces', -, -⟩ := frameSent_send payload len id ack u
      exact next ▸ (same.trans hsame).keepsIds hannounces' hs
    | autoAck => exact next ▸ ((pollPart_endProcess_deliver u).of_alike same).keepsIds hs
    | retry => exact next ▸ ((tickPart_frameSent_retry u).toPollPart.of_alike same).keepsIds hs
    | hello => cases hannounces
  | sendStamp same next => exact next ▸ ⟨⟨same.helloInt.trans hs.1, rfl⟩, same.nextId, same.lastHello⟩
  | retryNow same next => exact next ▸ ((tickPart_retryDue _).toPollPart.of_alike same).keepsIds hs
  | retryStamp same next => exact next ▸ ((tickPart_retryStamped _).toPollPart.of_alike same).keepsIds hs
  | helloNow => cases hannounces
  | helloStamp => cases hannounces

theorem keepsIds_run {ds : List Draw} (h : run ds s = .next t) : KeepsIds s t :=
  run_rel KeepsIds.refl (fun _ _ _ => KeepsIds.trans) (fun _ _ hs => ⟨hs, rfl, rfl⟩) (fun _ _ hs => ⟨hs, rfl, rfl⟩)
    (fun _ _ _ hr => (pollPart_received hr).keepsIds) (fun _ _ _ hp => keepsIds_primitive hp) ds s t h

theorem keepsIds_receiveAll {bytes : List Byte} (h : receiveAll bytes s = .next t) : KeepsIds s t :=
  receiveAll_rel KeepsIds.refl (fun _ _ _ => KeepsIds.trans) (fun _ _ hs => ⟨hs, rfl, rfl⟩)
    (fun _ _ _ hr => (pollPart_received hr).keepsIds) bytes s t h

/-- A command that begins as a part of a POLL draws no id. -/
theorem begin_draws_no_id {o : Out}
    (ho : ∀ u, o = .next u → Quiet u ∧ u.nextId = s.nextId ∧ u.lastHello = s.lastHello) (h : begin o = .next t) :
    t.nextId = s.nextId ∧ t.lastHello = s.lastHello := by
  obtain ⟨u, hu, h⟩ := andThen_eq_next h
  obtain ⟨hquiet, hid, hhello⟩ := ho u hu
  obtain ⟨-, hid', hhello'⟩ := keepsIds_run h hquiet
  exact ⟨hid'.trans hid, hhello'.trans hhello⟩

/-- The first byte is received wherever the block was; from it on the block is quiet. -/
theorem receiveFrame_draws_no_id {b : Byte} {rest : List Byte} (hz : s.helloInt = 0)
    (h : receiveFrame (b :: rest) s = .next t) : t.nextId = s.nextId ∧ t.lastHello = s.lastHello := by
  refine begin_draws_no_id (fun u hu => ?_) h
  rw [receiveAll_cons] at hu
  obtain ⟨v, hv, hu⟩ := andThen_eq_next hu
  obtain ⟨hquiet, hid, hhello⟩ := (pollPart_received hv).quiet hz
  split at hu
  · obtain ⟨hquiet', hid', hhello'⟩ := keepsIds_receiveAll hu hquiet
    exact ⟨hquiet', hid'.trans hid, hhello'.trans hhello⟩
  · cases hu
    exact ⟨hquiet, hid, hhello⟩

/-- Settles O56: POLL and every wire row begin with a part of a POLL, and a quiet block stays quiet. -/
theorem receivingDrawsNoId : Obligations.ReceivingDrawsNoId := by
  rintro i s t hz (rfl | ⟨_, rfl⟩ | ⟨_, _, _, _, rfl⟩ | ⟨_, _, _, _, rfl⟩ | ⟨_, _, _, _, rfl⟩) h
  · exact begin_draws_no_id (fun _ hu => (pollPart_rxStart hu).quiet hz) h
  all_goals exact receiveFrame_draws_no_id hz h

/-! ### A POLL raises at most one event (R51, R276) -/

/-- No event, or the one event of a command that could still raise it and cannot any more. -/
def Delivers (s t : State) : Prop :=
  (t.events = s.events ∧ (t.seq.phase.mayDeliver = true → s.seq.phase.mayDeliver = true)) ∨
  (s.seq.phase.mayDeliver = true ∧ t.seq.phase.mayDeliver = false ∧ ∃ e, t.events = s.events ++ [e])

theorem Delivers.trans {u : State} (h : Delivers s t) (k : Delivers t u) : Delivers s u := by
  obtain ⟨hst, hmay⟩ | ⟨hs, ht, hone⟩ := h
  · obtain ⟨htu, hmay'⟩ | ⟨ht, hu, hone⟩ := k
    · exact .inl ⟨htu.trans hst, hmay ∘ hmay'⟩
    · exact .inr ⟨hmay ht, hu, hst ▸ hone⟩
  · obtain ⟨htu, hmay'⟩ | ⟨ht', -, -⟩ := k
    · exact .inr ⟨hs, Bool.eq_false_iff.mpr fun hu => Bool.eq_false_iff.mp ht (hmay' hu), htu ▸ hone⟩
    · exact absurd ht' (Bool.eq_false_iff.mp ht)

theorem Delivers.of_silent (hevents : t.events = s.events) (hdeliver : t.seq.phase.mayDeliver = false) : Delivers s t :=
  .inl ⟨hevents, fun h => by simp [hdeliver] at h⟩

theorem TickPart.delivers (h : TickPart s t) : Delivers s t := .of_silent h.silent h.mayDeliver

theorem PollPart.delivers (h : PollPart s t) (hs : s.seq.phase.mayDeliver = true) : Delivers s t := by
  obtain hevents | ⟨hdeliver, hevents⟩ := h.events
  · exact .inl ⟨hevents, fun _ => hs⟩
  · exact .inr ⟨hs, hdeliver, hevents⟩

theorem delivers_primitive {d : Draw} (h : primitive d s = .next t) : Delivers s t := by
  have hstep := primitive_phaseStep h
  generalize hph : s.seq.phase = ph at hstep
  cases hstep with
  | stays same phase => exact .inl ⟨same.events, fun hp => by rwa [hph, ← phase]⟩
  | timeout same next => exact next ▸ ((tickPart_retryTick _).of_alike same).delivers
  | heard same next => exact ((pollPart_received next).of_alike same).delivers (hph ▸ rfl)
  | @sent a u same next =>
    cases a with
    | send payload len id ack =>
      obtain ⟨hsame, -, hdeliver, -⟩ := frameSent_send payload len id ack u
      exact next ▸ .of_silent (same.trans hsame).events hdeliver
    | autoAck => exact next ▸ ((pollPart_endProcess_deliver u).of_alike same).delivers (hph ▸ rfl)
    | retry => exact next ▸ ((tickPart_frameSent_retry u).of_alike same).delivers
    | hello => exact next ▸ .of_silent same.events rfl
  | sendStamp same next => exact next ▸ .of_silent same.events rfl
  | retryNow same next => exact next ▸ ((tickPart_retryDue _).of_alike same).delivers
  | retryStamp same next => exact next ▸ ((tickPart_retryStamped _).of_alike same).delivers
  | @helloNow u same next =>
    have hpart := helloPart_helloDue u
    exact next ▸ .of_silent (hpart.events.trans same.events) hpart.mayDeliver
  | helloStamp same next => exact next ▸ .of_silent same.events rfl

/-- No primitive step takes or adds a byte still to come. -/
theorem primitive_feed {d : Draw} (h : primitive d s = .next t) : t.feed = s.feed := by
  have hstep := primitive_phaseStep h
  generalize s.seq.phase = ph at hstep
  cases hstep with
  | stays same => exact same.feed
  | timeout same next => exact next ▸ ((tickPart_retryTick _).of_alike same).feed
  | heard same next => exact ((pollPart_received next).of_alike same).feed
  | sent same next => exact next ▸ (frameSent_feed _ _).trans same.feed
  | sendStamp same next => exact next ▸ same.feed
  | retryNow same next => exact next ▸ ((tickPart_retryDue _).of_alike same).feed
  | retryStamp same next => exact next ▸ ((tickPart_retryStamped _).of_alike same).feed
  | helloNow same next => exact next ▸ (helloPart_helloDue _).feed.trans same.feed
  | helloStamp same next => exact next ▸ same.feed

/-- With no bytes of a frame still to come, a run is its primitive steps. -/
theorem delivers_run : ∀ {ds : List Draw} {s t : State}, s.feed = [] → run ds s = .next t → Delivers s t
  | [], s, t, _, h => by cases h; exact .inl ⟨rfl, id⟩
  | d :: rest, s, t, hf, h => by
    by_cases hs : s.seq = .idle
    · rw [run_idle _ _ _ hs] at h
      cases h
      exact .inl ⟨rfl, id⟩
    · rw [run_settle hs] at h
      obtain ⟨u, hu, h⟩ := andThen_eq_next h
      obtain ⟨v, hv, hu⟩ := andThen_eq_next hu
      have hfeed : v.feed = [] := (primitive_feed hv).trans hf
      rw [settle_of_feed_nil hfeed] at hu
      cases hu
      exact (delivers_primitive hv).trans (delivers_run hfeed h)

/-- Settles O57: the receive attempt and the run after it raise an event between them, or none. -/
theorem pollRaisesAtMostOneEvent : Obligations.PollRaisesAtMostOneEvent := by
  intro s t hf h
  obtain ⟨u, hu, h⟩ := andThen_eq_next h
  have hpart := pollPart_rxStart hu
  have hrun := delivers_run (hpart.feed.trans hf) h
  obtain hevents | ⟨hdone, hevents⟩ := hpart.events
  · obtain ⟨hsame, -⟩ | ⟨-, -, hone⟩ := hrun
    · exact .inl (hsame.trans hevents)
    · exact .inr (hevents ▸ hone)
  · obtain ⟨hsame, -⟩ | ⟨hmay, -, -⟩ := hrun
    · exact .inr (hsame ▸ hevents)
    · simp [hdone] at hmay

end Sys2Proof.Machine
end

section
/-! The memory family (20_memory.md): SEND's frame is in the pending slot before its time is taken (R206, R82). -/
namespace Sys2Proof.Machine

/-- SEND with the bytes it announces: a new id is drawn, and the DATA frame under the old one begins to go out (R206). -/
theorem exec_send_of_enough_bytes {payload : List Byte} {len : Nat} {ack : Bool} {s : State}
    (hbytes : clampLen s.straps len ≤ payload.length) :
    exec (.send payload len ack) s = runCommand (sendBytes (encodeFrame s.straps 1 s.nextId payload len)
      (.send payload (clampLen s.straps len) s.nextId ack) (idDrawn s)) := by
  show execSend payload len ack s = _
  unfold execSend txFrame
  dsimp only
  rw [if_neg (Nat.not_lt.mpr hbytes), newId_eq, ← encodeFrame_clampLen s.straps 1 s.nextId payload len]
  rfl

/-- SEND where its frame can go out, at either level: what it does once FC.TXFRAME has returned, over the draws the frame has
left (R171, R206). -/
theorem exec_send_of_canSend {payload : List Byte} {len : Nat} (ack : Bool) {s : State} (hf : s.feed = [])
    (hbytes : clampLen s.straps len ≤ payload.length)
    (hc : canSend (encodeFrame s.straps 1 s.nextId payload len) s = true) :
    ∃ hs, exec (.send payload len ack) s =
      run (sentState (encodeFrame s.straps 1 s.nextId payload len) 0 s).env
        (frameSent (.send payload (clampLen s.straps len) s.nextId ack)
          (sentState (encodeFrame s.straps 1 s.nextId payload len) hs (idDrawn s))) := by
  obtain ⟨hs, hrun⟩ := run_sendBytes (encodeFrame s.straps 1 s.nextId payload len)
    (.send payload (clampLen s.straps len) s.nextId ack) (idDrawn s) (by simp [encodeFrame]) hf hc
  refine ⟨hs, ?_⟩
  rw [exec_send_of_enough_bytes hbytes, runCommand, sendBytes_env, hrun, frameSent_env, run_env,
    sentState_idDrawn_env _ hs 0]

/-- A tracked SEND whose frame is out captures it and goes to its clock read (R206). -/
theorem frameSent_send_of_claimsSlot {ack : Bool} {s : State} (h : claimsSlot ack s = true) (payload : List Byte) (len : Nat)
    (id : Byte) :
    frameSent (.send payload len id ack) s = goTo (.sendStamp id) (captureFrame payload len id s) := if_pos h

/-- Settles O36: the captured frame is written on the way to the clock read, where no draw is left to answer it. -/
theorem sendCapturesItsFrameBeforeTheStamp : Obligations.SendCapturesItsFrameBeforeTheStamp := by
  intro payload len s _ hf hbytes hfree n frame hc henv
  obtain ⟨hs, hexec⟩ := exec_send_of_canSend true hf hbytes hc
  have hpend : (sentState frame hs (idDrawn s)).pend = s.pend := sentState_pend ..
  have hleft : (sentState frame hs (idDrawn s)).env = [] := (sentState_idDrawn_env ..).trans henv
  have hclaims : claimsSlot true (sentState frame hs (idDrawn s)) = true := by simp [claimsSlot, hpend, hfree]
  refine ⟨hs, ?_⟩
  rw [hexec, henv, frameSent_send_of_claimsSlot hclaims, run_nil, ← hleft, ← hpend]
  rfl

end Sys2Proof.Machine
end

section
/-! The encoding family (30_encoding.md): the decoder and the encoder are inverse to each other (R100, R101, R110), an
item the decoder turns away is received byte by byte or refused (R109, R111), a byte goes out as its ten cells (R100), and FC.ENCODE
makes the frames of R101. -/
namespace Sys2Proof
open Machine

/-! ### Byte cells (R74, R100) -/

/-- The bits of an assembled byte are the levels it was assembled from (R74, R108 item 4). -/
theorem getLsbD_byteOfBits (bits : List Bool) {i : Nat} (hi : i < 8) :
    (byteOfBits bits).getLsbD i = bits.getD i false := by
  induction bits generalizing i with
  | nil => simp [byteOfBits]
  | cons b bits ih =>
    cases i with
    | zero => cases b <;> simp [byteOfBits]
    | succ i =>
      have htail : (byteOfBits (b :: bits)).getLsbD (i + 1) = (byteOfBits bits).getLsbD i := by
        cases b <;> simp [byteOfBits, hi, BitVec.getLsbD_eq_getElem (Nat.lt_of_succ_lt hi)]
      rw [htail, ih (Nat.lt_of_succ_lt hi), List.getD_cons_succ]

theorem bitsOfByte_byteOfBits {bits : List Bool} (h : bits.length = 8) : bitsOfByte (byteOfBits bits) = bits := by
  refine List.ext_getElem (by simp [bitsOfByte, h]) fun i _ hi => ?_
  simp only [bitsOfByte, List.getElem_map, List.getElem_range]
  rw [getLsbD_byteOfBits bits (h ▸ hi), List.getD_eq_getElem _ _ hi]

theorem decodeCells_cellsOfByte (b : Byte) : decodeCells (cellsOfByte b) = .ok (.byte b) := by
  have hbits : decodeCells (cellsOfByte b) = .ok (.byte (byteOfBits (bitsOfByte b))) := rfl
  rw [hbits, byteOfBits_bitsOfByte]

/-- The only cells the decoder takes are those of the byte it reads in them. -/
theorem encode_of_decodeCells {cells : List Bool} {i : Instr} (h : decodeCells cells = .ok i) :
    encode i = .cells cells := by
  unfold decodeCells at h
  split at h
  next b0 b1 b2 b3 b4 b5 b6 b7 =>
    cases h
    simp only [encode, cellsOfByte, bitsOfByte_byteOfBits (bits := [b0, b1, b2, b3, b4, b5, b6, b7]) rfl]
    rfl
  next => cases h

/-! ### Frames (R101 to R103) -/

/-- The two readings of a LENGTH byte that is at least 3: the bytes it announces, and its value (R102). -/
theorem payloadSize_eq {length : Byte} {payload : List Byte} (hp : payload.length + 3 = length.toNat) :
    payloadSize length = payload.length := by
  simp only [payloadSize, Config.lengthMin]
  omega

/-- A frame of the size its LENGTH announces is told apart by its TYPE alone (R103). -/
theorem decodeFrame_frameBytes {length : Byte} {payload : List Byte} (hsize : payloadSize length = payload.length)
    (type id checksum : Byte) :
    decodeFrame (frameBytes length type id payload checksum) =
      if type = Config.typeHello then .ok (.hello length id payload checksum)
      else if type = Config.typeData then .ok (.data length id payload checksum)
      else if type = Config.typeAck then .ok (.ack length id payload checksum)
      else .error .reservedType := by
  show decodeFrame (Config.start :: length :: type :: id :: (payload ++ [checksum])) = _
  simp [decodeFrame, hsize]

/-- The only frame the decoder takes is the one its instruction is encoded as, START first. -/
theorem encode_of_decodeFrame {bytes : List Byte} {i : Instr} (h : decodeFrame bytes = .ok i) :
    encode i = .frame bytes ∧ Config.start ∈ bytes := by
  unfold decodeFrame at h
  split at h
  next st length type id rest =>
    split at h
    next hstart =>
      split at h
      next checksum hlast =>
        have hbytes : st :: length :: type :: id :: rest =
            frameBytes length type id (rest.take (payloadSize length)) checksum := by
          simp [frameBytes, hstart, ← hlast]
        refine ⟨?_, by simp [hstart]⟩
        rw [hbytes]
        dsimp only at h
        split_ifs at h with htype htype htype <;> cases h <;> rw [htype] <;> rfl
      next => cases h
    next => cases h
  next => cases h

theorem payloadSize_of_frameOk {maxPayload : Nat} {length type id checksum : Byte} {payload : List Byte}
    (h : frameOk maxPayload length type id payload checksum = true) : payloadSize length = payload.length :=
  payloadSize_eq (frameOk_parts h).2.2.1

/-! ### Command words (R110, R111) -/

/-- A command word has the code of the command the decoder reads in it. -/
theorem encode_of_decodeCmd {w : CmdWord} {i : Instr} (h : decodeCmd w = .ok i) :
    ∃ v, encode i = .cmd v ∧ v.op = w.op ∧ decodeCmd v = .ok i := by
  unfold decodeCmd at h
  split at h
  case h_12 => cases h
  all_goals
    next hcode =>
      cases h
      exact ⟨_, rfl, BitVec.eq_of_toNat_eq hcode.symm, rfl⟩

theorem decodeCmd_reserved {w : CmdWord} (h : 0b1011 ≤ w.op.toNat) : decodeCmd w = .error .reservedCode := by
  unfold decodeCmd
  split
  case h_12 => rfl
  all_goals omega

/-! ### The decoder and the encoder -/

/-- Settles O1: a byte's cells are assembled again, a conforming frame has the size its LENGTH announces and one of the three
types, and a command's word holds its operands. -/
theorem decodeInvertsEncode : Obligations.DecodeInvertsEncode := by
  intro maxPayload i _ hw
  cases i with
  | byte b => exact decodeCells_cellsOfByte b
  | hello length id payload checksum =>
    exact (decodeFrame_frameBytes (payloadSize_of_frameOk hw) ..).trans (if_pos rfl)
  | data length id payload checksum =>
    exact (decodeFrame_frameBytes (payloadSize_of_frameOk hw) ..).trans rfl
  | ack length id payload checksum =>
    exact (decodeFrame_frameBytes (payloadSize_of_frameOk hw) ..).trans rfl
  | _ => rfl

/-- Settles O2: one inversion of the decoder for each of the three formats. -/
theorem encodeInvertsDecode : Obligations.EncodeInvertsDecode :=
  ⟨fun _ _ => encode_of_decodeCells, fun _ _ h => (encode_of_decodeFrame h).1, fun _ _ => encode_of_decodeCmd⟩

/-- Settles O3: every word is written out as far as the decoder looks at it, so each evaluates. -/
theorem wordsDecodeAsTheTableSays : Obligations.WordsDecodeAsTheTableSays :=
  ⟨rfl, rfl, rfl, rfl, rfl, fun _ _ _ => ⟨rfl, rfl, rfl, rfl, rfl, rfl, rfl, rfl, rfl, rfl, rfl⟩⟩

end Sys2Proof

namespace Sys2Proof.Machine

/-! ### Items the decoder turns away (R109, R111) -/

/-- An idle block takes the oldest waiting item for what it is on the wire when the decoder turns it away. -/
theorem step_of_stray {s : State} {item : Item} {rest : List Item} {why : Reject} (hr : ready s = true)
    (hp : s.port = item :: rest) (hd : decode item = .error why) :
    step s = receiveStray item { s with port := rest } := by
  unfold step
  rw [if_pos hr, hp]
  dsimp only
  rw [hd]

/-- Settles O4: a reserved code is no word of the decoder, and the one kind of stray item that is refused. -/
theorem reservedCodesAreRefused : Obligations.ReservedCodesAreRefused :=
  fun _ _ _ hr hp hcode => step_of_stray hr hp (decodeCmd_reserved hcode)

/-- Settles O6: the two kinds of stray item that are received. -/
theorem wireItemsAreReceivedWhateverTheyHold : Obligations.WireItemsAreReceivedWhateverTheyHold :=
  fun _ _ _ hr => ⟨fun _ hp hd => step_of_stray hr hp hd, fun _ hp hd => step_of_stray hr hp hd⟩

/-- With no deadline watched, a byte other than START leaves a receiver that waits for START as it was (R175, R212). -/
theorem received_of_not_start {b : Byte} {s : State} (hs : s.seq = .idle) (hn : noDeadline s = true)
    (h0 : s.rxState = .awaitingStart) (hb : b ≠ 0xA5) : received b s = .next s := by
  rw [received_start h0, stepStart_other s hb, retryTick_none hn, goTo_idle hs]

theorem receiveAll_of_no_start {bytes : List Byte} {s : State} (hs : s.seq = .idle) (hn : noDeadline s = true)
    (h0 : s.rxState = .awaitingStart) (hb : 0xA5 ∉ bytes) : receiveAll bytes s = .next { s with feed := [] } := by
  induction bytes with
  | nil => rfl
  | cons b bytes ih =>
    obtain ⟨hne, hrest⟩ := not_or.mp (List.mem_cons.not.mp hb)
    rw [receiveAll_step (received_of_not_start (s := { s with feed := bytes }) hs hn h0 (Ne.symm hne)) hs,
      receiveAll_feed, ih hrest]

/-- Received bytes after which the block is idle again complete with no supplier call. -/
theorem receiveFrame_of_idle {bytes : List Byte} {s t : State} (h : receiveAll bytes s = .next t) (ht : t.seq = .idle) :
    receiveFrame bytes s = .next t := by
  unfold receiveFrame begin
  rw [h]
  exact run_of_idle t.env t ht

/-- Settles O23: bytes without START are no frame of the decoder, and each is discarded. -/
theorem bytesWithoutStartAreDiscarded : Obligations.BytesWithoutStartAreDiscarded := by
  intro bytes rest s hs hf hn h0 hp hb
  cases hd : decode (.frame bytes) with
  | ok i => exact absurd (encode_of_decodeFrame hd).2 hb
  | error why =>
    rw [step_of_stray ((ready_iff s).mpr hs) hp hd]
    have hall := receiveAll_of_no_start (s := { s with port := rest }) hs hn h0 hb
    refine (receiveFrame_of_idle hall hs :).trans ?_
    rw [← hf]

/-! ### Frames of an unassigned TYPE (R197, R214) -/

theorem knownType_of_unassigned {type : Byte} (h : 3 ≤ type.toNat) : knownType type = false := by
  rw [← Bool.not_eq_true, knownType_iff]
  rintro (rfl | rfl | rfl) <;> exact absurd h (by decide)

theorem decodeFrame_unassigned {length type : Byte} {payload : List Byte} (h : 3 ≤ type.toNat)
    (hp : payload.length + 3 = length.toNat) (id checksum : Byte) :
    decodeFrame (frameBytes length type id payload checksum) = .error .reservedType := by
  have hne (known : Byte) (hk : known.toNat < 3) : type ≠ known := fun e => by rw [e] at h; omega
  rw [decodeFrame_frameBytes (payloadSize_eq hp), if_neg (hne _ (by decide)), if_neg (hne _ (by decide)),
    if_neg (hne _ (by decide))]

theorem process_of_bad_checksum {s : State} (h : validBody s = false) : process s = .next (endProcess s) := if_pos h

theorem process_of_reserved_type {s : State} (hv : validBody s = true) (hk : knownType (bodyType s) = false) :
    process s = .refused .reservedFrameType := by
  unfold process
  rw [hv, if_neg (by simp), if_pos hk]

theorem stored_bodyComplete {length : Byte} {payload : List Byte} (hp : payload.length + 3 = length.toNat)
    (type id checksum : Byte) (s : State) :
    Stored length type id checksum payload (bodyComplete length type id checksum payload s) := ⟨rfl, hp, _, rfl⟩

/-- A body with a wrong checksum, of whatever TYPE, is dropped as it stands in `RXBUF` (R197, R264). -/
theorem process_bodyComplete_of_bad_checksum {length type id checksum : Byte} {payload : List Byte} {s : State}
    (hs : s.seq = .idle) (hf : s.feed = []) (hn : noDeadline s = true) (hp : payload.length + 3 = length.toNat)
    (hck : checksum ≠ crcFrame length type id payload) :
    process (bodyComplete length type id checksum payload s) =
      .next (bodyStored length ([type, id] ++ payload ++ [checksum]) s) := by
  have hvalid : validBody (bodyComplete length type id checksum payload s) = false := by
    rw [(stored_bodyComplete hp ..).valid]
    exact beq_false_of_ne hck.symm
  rw [process_of_bad_checksum hvalid, endProcess_none (by exact hn)]
  simp [goTo, resetReassembly, bodyComplete, bodyStored, hs, hf]

/-- A body of an unassigned TYPE that validates is refused (R214, U2). -/
theorem process_bodyComplete_of_unassigned {length type : Byte} {payload : List Byte} (htype : 3 ≤ type.toNat)
    (hp : payload.length + 3 = length.toNat) (id : Byte) (s : State) :
    process (bodyComplete length type id (crcFrame length type id payload) payload s) = .refused .reservedFrameType := by
  have hstored := stored_bodyComplete hp type id (crcFrame length type id payload) s
  refine process_of_reserved_type ?_ ?_
  · rw [hstored.valid, beq_self_eq_true]
  · rw [hstored.type, knownType_of_unassigned htype]

theorem receiveFrame_of_refused {bytes : List Byte} {s : State} {why : Refusal}
    (h : receiveAll bytes s = .refused why) : receiveFrame bytes s = .refused why := by
  unfold receiveFrame
  rw [h]
  rfl

/-- Settles O24: the decoder turns the frame away for its TYPE, and its bytes are received up to PE.PROCESS, which tests the
checksum first. -/
theorem unassignedTypeIsDroppedUnlessItValidates : Obligations.UnassignedTypeIsDroppedUnlessItValidates := by
  intro length type id checksum payload rest s hs hf hn h0 hb htype hl hu hp hport
  have hstep : step s = receiveFrame (frameBytes length type id payload checksum) { s with port := rest } :=
    step_of_stray ((ready_iff s).mpr hs) hport (decodeFrame_unassigned htype hp id checksum)
  obtain ⟨hall, -⟩ := receiveAll_frame (type := type) (id := id) (checksum := checksum) { s with port := rest }
    hs hn h0 hb hl hu hp
  rw [hstep]
  constructor
  · intro hck
    exact receiveFrame_of_idle
      (hall.trans (process_bodyComplete_of_bad_checksum (s := { s with port := rest }) hs hf hn hp hck)) hs
  · rintro rfl
    exact receiveFrame_of_refused (hall.trans (process_bodyComplete_of_unassigned htype hp id _))

/-! ### The cells of a byte, heard and sent (R100) -/

/-- A receiver that has heard a byte's start edge and its eight levels listens on from the level of bit 7 (R147, R152). -/
theorem bytesHeard_start_bits (b : Byte) (later : List Bool) :
    bytesHeard (false :: (bitsOfByte b ++ later)) = b :: hear (.watching (b.getLsbD 7)) later := by
  have hheard : bytesHeard (false :: (bitsOfByte b ++ later)) =
      byteOfBits (bitsOfByte b) :: hear (.watching (b.getLsbD 7)) later := rfl
  rw [hheard, byteOfBits_bitsOfByte]

/-- A low level as the last one starts a byte exactly if the level before it was high; the line after it is high. -/
theorem hear_watching_low (last : Bool) : hear (.watching last) [false] = if last then [0xFF] else [] := by
  cases last <;> rfl

/-- Settles O15: the stop cell is looked at only as the level after bit 7. -/
theorem cellsAreHeardAsTheirByte : Obligations.CellsAreHeardAsTheirByte := by
  refine fun b => ⟨bytesHeard_cellsOfByte b, ?_⟩
  rw [bytesHeard_start_bits, hear_watching_low]
  cases b.getLsbD 7 <;> rfl

/-- Settles O11: the idle wait and the ten cells, then the next byte of the frame begins its own idle wait (R171). -/
theorem byteGoesOutAsTenCells : Obligations.ByteGoesOutAsTenCells := by
  intro b next more after ds s hs hd hlen hfree
  obtain ⟨stamp, hrun⟩ := run_byte ⟨b, next :: more, after⟩ ds [] s hs hd hlen hfree
  refine ⟨stamp, ?_⟩
  rw [List.append_nil] at hrun
  rw [hrun, byteSent, settle_busy (by simp)]
  rfl

/-! ### The frames FC.ENCODE makes (R101, R170) -/

theorem lengthOf_toNat {n : Nat} (h : n ≤ 252) : (lengthOf n).toNat = n + 3 :=
  (BitVec.toNat_ofNat ..).trans (Nat.mod_eq_of_lt (by simp only [Config.lengthMin]; omega))

/-- A LENGTH and a CHECKSUM made from a payload that fits make a conforming frame of any TYPE (R102, R106). -/
theorem frameOk_of_fits {m n : Nat} {body : List Byte} (hm : m ≤ 252) (hn : n ≤ m) (hbody : body.length = n)
    (type id : Byte) :
    frameOk m (lengthOf n) type id body (crcFrame (lengthOf n) type id body) = true := by
  have hlength := lengthOf_toNat (hn.trans hm)
  have hrange : lengthInRange m (lengthOf n) = true := (lengthInRange_iff ..).mpr (by omega)
  have hsize : payloadSize (lengthOf n) = body.length := payloadSize_eq (by omega)
  simp [frameOk, frameShape, hrange, hsize]

/-- Settles O18: LENGTH is 3 more than a payload that fits its byte, and the three assigned types conform alike. -/
theorem encodedFramesAreWellFormed : Obligations.EncodedFramesAreWellFormed := by
  intro p type id payload len hbytes n body
  have hbody : body.length = n := List.length_take_of_le hbytes
  have hmax : p.maxPayload.val ≤ 252 := Nat.le_of_lt_succ p.maxPayload.isLt
  have hn : n ≤ p.maxPayload.val := Nat.min_le_right ..
  have hok := frameOk_of_fits hmax hn hbody type id
  refine ⟨lengthOf n, crcFrame (lengthOf n) type id body, rfl, lengthOf_toNat (hn.trans hmax), rfl, ?_, ?_, ?_, ?_⟩
  · show (([Config.start, lengthOf n, type, id] ++ body) ++ [_]).length = n + 5
    simp only [List.length_append, List.length_cons, List.length_nil, hbody]
    omega
  all_goals
    rintro rfl
    exact hok

end Sys2Proof.Machine
end

section
/-! The checksum family (40_checksum.md): every round of CRC8.UPDATE can be undone, so a fold gives each of its bytes away
when the others are known. -/
namespace Sys2Proof.Machine

/-! ### CRC8.UPDATE and CRC8.FOLD are injective (R130, R131) -/

/-- The shift clears bit 0 and the polynomial is odd, so bit 0 after a round is the bit the round tested. -/
theorem crcRound_getLsbD_zero (x : Byte) : (crcRound x).getLsbD 0 = x.getLsbD 7 := by
  unfold crcRound
  cases x.getLsbD 7 <;> simp [Config.crcPoly]

theorem crcRound_injective : Function.Injective crcRound := by
  intro x y h
  have htested : x.getLsbD 7 = y.getLsbD 7 := by rw [← crcRound_getLsbD_zero, h, crcRound_getLsbD_zero]
  have hshifted : x <<< 1 = y <<< 1 := by
    unfold crcRound at h
    rw [htested] at h
    split at h
    · exact BitVec.xor_left_inj _ |>.mp h
    · exact h
  refine BitVec.eq_of_getLsbD_eq fun i hi => ?_
  obtain rfl | hlow : i = 7 ∨ i + 1 < 8 := by omega
  · exact htested
  · simpa [hlow, BitVec.getLsbD_eq_getElem hi] using congrArg (·.getLsbD (i + 1)) hshifted

theorem crcUpdate_eq_iff {acc acc' b b' : Byte} : crcUpdate acc b = crcUpdate acc' b' ↔ acc ^^^ b = acc' ^^^ b' :=
  (crcRound_injective.iterate 8).eq_iff

theorem foldl_crcUpdate_injective (bytes : List Byte) : Function.Injective fun acc => bytes.foldl crcUpdate acc := by
  induction bytes with
  | nil => exact fun _ _ h => h
  | cons b bytes ih => exact fun acc acc' h => BitVec.xor_left_inj b |>.mp (crcUpdate_eq_iff.mp (ih h))

theorem crcFold_append_cons (before after : List Byte) (b : Byte) :
    crcFold (before ++ b :: after) = after.foldl crcUpdate (crcUpdate (crcFold before) b) := by
  simp [crcFold]

/-- Two sequences that differ in one place at most have the same checksum only if they are equal there. -/
theorem crcFold_middle_eq_iff (before after : List Byte) {b b' : Byte} :
    crcFold (before ++ b :: after) = crcFold (before ++ b' :: after) ↔ b = b' := by
  rw [crcFold_append_cons, crcFold_append_cons, (foldl_crcUpdate_injective after).eq_iff, crcUpdate_eq_iff,
    BitVec.xor_right_inj]

theorem crcFold_set_eq_iff {bytes : List Byte} {i : Nat} (hi : i < bytes.length) (b : Byte) :
    crcFold (bytes.set i b) = crcFold bytes ↔ b = bytes.getD i 0 := by
  conv_lhs => rhs; rw [← List.take_append_drop i bytes, List.drop_eq_getElem_cons hi]
  rw [List.set_eq_take_append_cons_drop, if_pos hi, crcFold_middle_eq_iff, List.getD_eq_getElem _ _ hi]

theorem crcUpdate_eq_zero_iff {acc b : Byte} : crcUpdate acc b = 0 ↔ b = acc := by
  have hzero : crcUpdate 0 0 = 0 := by decide
  rw [← hzero, crcUpdate_eq_iff, eq_comm (a := b)]
  exact BitVec.xor_eq_zero_iff

theorem flipped_ne_self (b : Byte) {k : Nat} (hk : k < 8) : b ^^^ ((1 : Byte) <<< k) ≠ b := by
  intro h
  have hbit := congrArg (·.getLsbD k) h
  simp [hk] at hbit

/-- Settles O8: the last byte's rounds end at 0 exactly if they begin there. -/
theorem checksumAppendedFoldsToZero : Obligations.ChecksumAppendedFoldsToZero := by
  intro bytes c
  rw [crcFold_append_cons]
  exact crcUpdate_eq_zero_iff

/-- Settles O9: a fold gives away the byte at `i`, and the flipped byte is another one. -/
theorem oneFlippedBitChangesChecksum : Obligations.OneFlippedBitChangesChecksum :=
  fun _ _ _ hi hk h => flipped_ne_self _ hk ((crcFold_set_eq_iff hi _).mp h)

/-! ### A frame with one flipped bit (R180, R197) -/

/-- A body of the size its LENGTH announces is laid out as TYPE, MESSAGE_ID, PAYLOAD and CHECKSUM (R101). -/
theorem exists_body_fields {body : List Byte} (h : 3 ≤ body.length) :
    ∃ type id payload checksum, body = [type, id] ++ payload ++ [checksum] ∧ payload.length + 3 = body.length := by
  obtain _ | ⟨type, _ | ⟨id, rest⟩⟩ := body
  · simp at h
  · simp at h
  · obtain rfl | ⟨payload, checksum, rfl⟩ := List.eq_nil_or_concat rest
    · simp at h
    · exact ⟨type, id, payload, checksum, by simp, by simp⟩

/-- A body that does not fold to 0 together with its LENGTH is dropped as received (R178, R197). -/
theorem receiveFrame_of_fold_ne_zero {length : Byte} {body : List Byte} {s : State}
    (hs : s.seq = .idle) (hf : s.feed = []) (hn : noDeadline s = true) (h0 : s.rxState = .awaitingStart)
    (hb : s.rxBuf.length = maxBody s.straps) (hl : 3 ≤ length.toNat) (hu : length.toNat ≤ s.straps.maxPayload.val + 3)
    (hsize : body.length = length.toNat) (hfold : crcFold (length :: body) ≠ 0) :
    receiveFrame (Config.start :: length :: body) s = .next (bodyStored length body s) := by
  obtain ⟨type, id, payload, checksum, rfl, hp⟩ := exists_body_fields (hsize ▸ hl)
  rw [hsize] at hp
  have hck : checksum ≠ crcFrame length type id payload := fun h =>
    hfold ((checksumAppendedFoldsToZero ([length, type, id] ++ payload) checksum).mpr h)
  obtain ⟨hall, -⟩ := receiveAll_frame (type := type) (id := id) (checksum := checksum) s hs hn h0 hb hl hu hp
  exact receiveFrame_of_idle (hall.trans (process_bodyComplete_of_bad_checksum hs hf hn hp hck)) hs

/-- FC.ENCODE of a payload that fits: START, LENGTH, and a body that folds to 0 together with its LENGTH (R170, R178). -/
theorem encodeFrame_of_fits {p : Straps} {payload : List Byte} (hfit : payload.length ≤ p.maxPayload.val)
    (type id : Byte) :
    ∃ body, encodeFrame p type id payload payload.length = Config.start :: lengthOf payload.length :: body ∧
      body.length = payload.length + 3 ∧ crcFold (lengthOf payload.length :: body) = 0 := by
  refine ⟨[type, id] ++ payload ++ [crcFrame (lengthOf payload.length) type id payload], ?_, by simp, ?_⟩
  · simp [encodeFrame, clampLen, hfit]
  · exact (checksumAppendedFoldsToZero ([lengthOf payload.length, type, id] ++ payload) _).mpr rfl

/-- Settles O22: sent, LENGTH and body fold to 0; with a bit of the body flipped they do not. -/
theorem oneFlippedBitDropsTheFrame : Obligations.OneFlippedBitDropsTheFrame := by
  intro type id payload j k s hs hf hn h0 hb hfit hj hj' hk sent got
  obtain ⟨body, hsent, hbody, hzero⟩ := encodeFrame_of_fits hfit type id
  obtain ⟨i, rfl⟩ := Nat.exists_eq_add_of_le' hj
  have hlength : (lengthOf payload.length).toNat = payload.length + 3 := lengthOf_toNat (by omega)
  have hgot : got = Config.start :: lengthOf payload.length :: body.set i (body.getD i 0 ^^^ ((1 : Byte) <<< k)) := by
    simp only [got, sent, hsent, List.set_cons_succ, List.getD_cons_succ]
  rw [hgot]
  refine receiveFrame_of_fold_ne_zero hs hf hn h0 hb (by omega) (by omega) (by simp [hbody, hlength]) fun hfold => ?_
  exact oneFlippedBitChangesChecksum (lengthOf payload.length :: body) (i + 1) k (by simp; omega) hk
    (hfold.trans hzero.symm)

end Sys2Proof.Machine
end

section
/-! The bit transport family (41_bit_transport.md): BT.SETBITP (R140), BT.IDLEWAIT on a stuck line (R141), BT.RXBYTE phase by
phase (R145 to R150), and what a SEND has put on the wire when it completes (R143, R206). -/
namespace Sys2Proof.Machine

variable {s t : State}

/-! ### BT.SETBITP (R140) -/

theorem clampBitp_eq (p : Nat) : clampBitp p = max 300 (min p 2000) := by
  unfold clampBitp Config.bitpMin Config.bitpMax
  split
  · omega
  · split <;> omega

/-- Settles O10: the clamp as a maximum and a minimum. -/
theorem bitPeriodIsClamped : Obligations.BitPeriodIsClamped := by
  intro p s
  have hclamp := clampBitp_eq p
  exact ⟨clampBitp p, rfl, by omega, by omega, by omega, by omega, by omega⟩

/-! ### One supplier call of a run -/

/-- A primitive step that leaves the command running. -/
theorem run_cons_of_busy {d : Draw} {ds : List Draw} (hs : s.seq ≠ .idle) (h : primitive d s = .next t)
    (ht : t.seq ≠ .idle) : run (d :: ds) s = run ds t := by
  rw [run_settle hs, h, andThen_next, settle_busy ht, andThen_next]

/-- A primitive step with no bytes of a frame still to come, whether it completes the command or not. -/
theorem run_cons_of_feed_nil {d : Draw} {ds : List Draw} (hs : s.seq ≠ .idle) (hf : s.feed = [])
    (h : primitive d s = .next t) : run (d :: ds) s = run ds t := by
  rw [run_settle hs, h, andThen_next, settle_of_feed_nil ((primitive_feed h).trans hf), andThen_next]

theorem lineHigh_of_pulled {d : Draw} (h : d.pulled = true) (s : State) : lineHigh d s = false := by simp [lineHigh, h]

theorem lineHigh_of_free {d : Draw} (h : d.pulled = false) (hd : s.drv = false) : lineHigh d s = true := by
  simp [lineHigh, h, hd]

/-! ### BT.IDLEWAIT on a stuck line (R141, R313) -/

/-- The supplier calls of BT.IDLEWAIT that no high read has come before. -/
def Pos.AwaitsHigh (tx : Tx) (p : Pos) : Prop := p = .idleEnter tx ∨ p = .idleRead tx ∨ p = .idleLow tx

/-- A stamp is followed by a read, and a low read by a stamp. -/
theorem primitive_of_awaitsHigh {tx : Tx} {d : Draw} (hs : s.seq.AwaitsHigh tx) (hlow : d.pulled = true) :
    ∃ p hs', p.AwaitsHigh tx ∧
      primitive d s = .next { tick d s with seq := p, tmp := { s.tmp with hs := hs' } } := by
  unfold primitive
  obtain h | h | h := hs <;> rw [h]
  · exact ⟨.idleRead tx, (tick d s).micros, .inr (.inl rfl), rfl⟩
  · refine ⟨.idleLow tx, s.tmp.hs, .inr (.inr rfl), ?_⟩
    simp only [idleRead, lineHigh_of_pulled hlow]
    rfl
  · exact ⟨.idleRead tx, (tick d s).micros, .inr (.inl rfl), rfl⟩

theorem Pos.AwaitsHigh.busy {tx : Tx} {p : Pos} (h : p.AwaitsHigh tx) : p ≠ .idle := by
  obtain rfl | rfl | rfl := h <;> simp

/-- Settles O12, by induction on the supplier calls: each leaves the block where it awaits a high read. -/
theorem stuckLineSendsNothing : Obligations.StuckLineSendsNothing := by
  intro tx ds
  induction ds with
  | nil => exact fun s hs _ => ⟨s.seq, s.micros, s.millis, s.tmp.hs, hs, rfl⟩
  | cons d ds ih =>
    intro s hs hstuck
    obtain ⟨hlow, hstuck⟩ : d.pulled = true ∧ lineStuck ds = true := by simpa [lineStuck] using hstuck
    obtain ⟨p, stamp, hp, hprim⟩ := primitive_of_awaitsHigh hs hlow
    obtain ⟨q, us, ms, stamp', hq, hrun⟩ := ih { tick d s with seq := p, tmp := { s.tmp with hs := stamp } } hp hstuck
    refine ⟨q, us, ms, stamp', hq, ?_⟩
    rw [run_cons_of_busy (Pos.AwaitsHigh.busy hs) hprim (Pos.AwaitsHigh.busy hp), hrun]
    rfl

/-! ### BT.RXBYTE, phases (a) to (c) (R145 to R148) -/

/-- `s` inside BT.RXBYTE, at `p` and with the transients `x`. -/
def listening (p : Pos) (x : Transient) (s : State) : State := { s with seq := p, tmp := x }

theorem listening_self {p : Pos} (h : s.seq = p) : listening p s.tmp s = s := by
  subst h
  rfl

@[simp] theorem listening_seq (p : Pos) (x : Transient) (s : State) : (listening p x s).seq = p := rfl

theorem elapsed_listening (ds : List Draw) (p : Pos) (x : Transient) (s : State) :
    elapsed ds (listening p x s) = listening p x (elapsed ds s) := rfl

theorem tick_elapsed (d : Draw) (ds : List Draw) (s : State) : tick d (elapsed ds s) = elapsed (ds ++ [d]) s := by
  rw [elapsed_append, tick_eq_elapsed]

/-- `n` microseconds later (R57). -/
def afterMicros (n : Nat) (s : State) : State := { s with micros := s.micros + n }

/-- A delay among other calls is a delay before them. -/
theorem afterMicros_elapsed (n : Nat) (ds : List Draw) (s : State) :
    afterMicros n (elapsed ds s) = elapsed ds (afterMicros n s) := by
  simp only [afterMicros, elapsed, Nat.add_right_comm]

theorem delay_elapsed (n : Nat) (ds : List Draw) (d : Draw) (s : State) :
    delay n d (elapsed ds s) = elapsed (ds ++ [d]) (afterMicros n s) := by
  rw [← afterMicros_elapsed, ← tick_elapsed]
  simp [delay, tick, afterMicros, Nat.add_right_comm]

/-- A wire-level POLL begins with the clock read of BT.RXBYTE. -/
theorem exec_poll_of_wire (hl : s.straps.level = .wire) : exec .poll s = run s.env (listening .rxEnter s.tmp s) := by
  show begin (rxStart s) = _
  unfold rxStart
  rw [hl]
  rfl

section Calls
variable (x : Transient) (more : List Draw)

theorem run_rxEnter (d : Draw) (s : State) :
    run (d :: more) (listening .rxEnter x s) =
      run more (listening .rxLeaveLow { x with t0 := readMillis (elapsed [d] s) } (elapsed [d] s)) :=
  run_cons_of_busy (by simp) rfl (by simp)

/-- A high look ends phase (a). -/
theorem run_rxLeaveLow_high {d : Draw} (hd : s.drv = false) (hhigh : d.pulled = false) :
    run (d :: more) (listening .rxLeaveLow x s) = run more (listening .rxWatch x (elapsed [d] s)) :=
  run_cons_of_busy (by simp) (congrArg Host.Outcome.next (if_pos (lineHigh_of_free hhigh hd))) (by simp)

/-- A low look in phase (b) is an edge: its time is taken, and a quarter bit period goes by before the re-check. -/
theorem run_rxWatch_low {d0 : Draw} (hlow : d0.pulled = true) (d1 d2 : Draw) (s : State) :
    run (d0 :: d1 :: d2 :: more) (listening .rxWatch x s) =
      run more (listening .rxRecheck { x with edge := (elapsed [d0, d1] s).micros }
        (elapsed [d0, d1, d2] (afterMicros (s.bitp / 4) s))) := by
  have hedge : primitive d0 (listening .rxWatch x s) = .next (listening .rxEdge x (elapsed [d0] s)) :=
    congrArg Host.Outcome.next (if_neg (by simp [lineHigh_of_pulled hlow]))
  have hstamp (u : State) : primitive d1 (listening .rxEdge x u) =
      .next (listening .rxGlitchDelay { x with edge := (tick d1 u).micros } (tick d1 u)) := rfl
  have hquarter (y : Transient) (u : State) : primitive d2 (listening .rxGlitchDelay y u) =
      .next (listening .rxRecheck y (delay (u.bitp / 4) d2 u)) := rfl
  rw [run_cons_of_busy (by simp) hedge (by simp), run_cons_of_busy (by simp) (hstamp _) (by simp),
    run_cons_of_busy (by simp) (hquarter _ _) (by simp), tick_elapsed, delay_elapsed]
  rfl

/-- A high re-check is a glitch (R262). -/
theorem run_rxRecheck_high {d : Draw} (hd : s.drv = false) (hhigh : d.pulled = false) :
    run (d :: more) (listening .rxRecheck x s) = run more (listening .rxWatch x (elapsed [d] s)) :=
  run_cons_of_busy (by simp) (congrArg Host.Outcome.next (if_pos (lineHigh_of_free hhigh hd))) (by simp)

end Calls

/-- Settles O14: the edge, the quarter bit period and the re-check, which finds the line high. -/
theorem glitchLeavesNoTrace : Obligations.GlitchLeavesNoTrace := by
  intro d0 d1 d2 d3 more s hs hd hlow hhigh
  have hmicros : s.micros + d0.us + d1.us + (s.bitp / 4 + d2.us) + d3.us =
    (elapsed [d0, d1, d2, d3] (afterMicros (s.bitp / 4) s)).micros := by
    simp [elapsed, afterMicros]; omega
  have hmillis : s.millis + d0.ms + d1.ms + d2.ms + d3.ms = (elapsed [d0, d1, d2, d3] s).millis := by
    simp [elapsed]; omega
  have hedge : s.micros + d0.us + d1.us = (elapsed [d0, d1] s).micros := by simp [elapsed]; omega
  show run (d0 :: d1 :: d2 :: d3 :: more) s = _
  rw [hmicros, hmillis, hedge]
  conv_lhs => rw [← listening_self hs]
  rw [run_rxWatch_low _ _ hlow, run_rxRecheck_high _ _ (by exact hd) hhigh, ← elapsed_append, ← hs]
  rfl

/-! ### The sampler (R149) -/

/-- The bit a position of phase (d) waits for or samples. -/
def Pos.bit? : Pos → Option Nat
  | .rxTarget i | .rxTargetBudget i | .rxSample i => some i
  | _ => none

theorem Pos.bit?_eq_some_iff {p : Pos} {i : Nat} :
    p.bit? = some i ↔ p = .rxTarget i ∨ p = .rxTargetBudget i ∨ p = .rxSample i := by
  cases p <;> simp [Pos.bit?]

/-- The instant of bit `i` (R149). -/
def sampleInstant (edge bitp i : Nat) : Nat := edge + bitp + bitp / 2 + i * bitp

theorem firstTarget_eq_sampleInstant (edge bitp : Nat) : firstTarget edge bitp = sampleInstant edge bitp 0 := by
  simp [firstTarget, sampleInstant, halfOf, Config.halfDivisor]

theorem sampleInstant_succ (edge bitp i : Nat) :
    sampleInstant edge bitp (i + 1) = sampleInstant edge bitp i + bitp := by
  simp only [sampleInstant, Nat.succ_mul, Nat.add_assoc]

theorem ne_listening_of_mayDeliver {p : Phase} (h : p.mayDeliver = false) : p ≠ .listening := by
  rintro rfl
  cases h

/-- Behind FC.TXFRAME no caller listens (R46). -/
theorem frameSent_ne_listening (a : After) (s : State) : (frameSent a s).seq.phase ≠ .listening := by
  refine ne_listening_of_mayDeliver ?_
  cases a with
  | send payload len id ack =>
    obtain ⟨-, -, hdeliver, -⟩ := frameSent_send payload len id ack s
    exact hdeliver
  | autoAck => exact (tickPart_endProcess (deliver s)).mayDeliver
  | retry | hello => rfl

theorem sendBytes_ne_listening (x : List Byte) (a : After) (s : State) : (sendBytes x a s).seq.phase ≠ .listening := by
  obtain ⟨p, hp, h⟩ | ⟨sent, h⟩ := sendBytes_cases x a s <;> rw [h]
  · rw [goTo_seq, hp]
    nofun
  · exact frameSent_ne_listening a _

theorem process_ne_listening (h : process s = .next t) : t.seq.phase ≠ .listening := by
  unfold process at h
  generalize filterDuplicate (matchAck (capturePeer s)) = u at h
  split at h
  · cases h
    exact ne_listening_of_mayDeliver (tickPart_endProcess s).mayDeliver
  split at h
  · cases h
  dsimp only at h
  split at h
  · cases h
    exact ne_listening_of_mayDeliver (tickPart_endProcess _).mayDeliver
  · cases h
    exact sendBytes_ne_listening _ _ _

/-- A POLL receives at most one byte (R212): behind it, nothing listens. -/
theorem received_ne_listening {b : Byte} (h : received b s = .next t) : t.seq.phase ≠ .listening := by
  obtain hs | hs | hs := rxState_cases s
  · rw [received_start hs] at h
    cases h
    exact ne_listening_of_mayDeliver (tickPart_retryTick _).mayDeliver
  · rw [received_length hs] at h
    cases h
    exact ne_listening_of_mayDeliver (tickPart_retryTick _).mayDeliver
  · rw [received_body hs] at h
    by_cases hlast : s.rxIdx + 1 = s.rxLen.toNat
    · rw [stepBody_last hlast] at h
      exact process_ne_listening h
    · rw [stepBody_more hlast] at h
      cases h
      exact ne_listening_of_mayDeliver (tickPart_retryTick _).mayDeliver

/-- BT.RXBYTE is entered at the start of a POLL only. -/
theorem primitive_ne_listening {d : Draw} (h : primitive d s = .next t) (hs : s.seq.phase ≠ .listening) :
    t.seq.phase ≠ .listening := by
  have hstep := primitive_phaseStep h
  generalize s.seq.phase = ph at hstep hs
  cases hstep with
  | stays _ phase => exact phase ▸ hs
  | timeout | heard => exact absurd rfl hs
  | sent _ next => exact next ▸ frameSent_ne_listening _ _
  | sendStamp _ next => exact next ▸ nofun
  | retryNow _ next => exact next ▸ ne_listening_of_mayDeliver (tickPart_retryDue _).mayDeliver
  | retryStamp _ next => exact next ▸ ne_listening_of_mayDeliver (tickPart_retryStamped _).mayDeliver
  | helloNow _ next => exact next ▸ ne_listening_of_mayDeliver (helloPart_helloDue _).mayDeliver
  | helloStamp _ next => exact next ▸ nofun

theorem Pos.listening_of_bit? {p : Pos} {i : Nat} (h : p.bit? = some i) : p.phase = .listening := by
  obtain rfl | rfl | rfl := Pos.bit?_eq_some_iff.mp h <;> rfl

/-- How a primitive step comes to wait for bit `i`, or to sample it: the re-check has set the first target, the bit before has
been sampled, or the block was at that bit already and goes on to its sample once the clock has reached the target. -/
inductive SamplerStep (s t : State) : Nat → Prop
  | first (seq : t.seq = .rxTarget 0) (target : t.tmp.target = sampleInstant t.tmp.edge t.bitp 0) : SamplerStep s t 0
  | later {i : Nat} (bit : s.seq.bit? = some i) (seq : t.seq = .rxTarget (i + 1)) (edge : t.tmp.edge = s.tmp.edge)
      (bitp : t.bitp = s.bitp) (target : t.tmp.target = s.tmp.target + s.bitp) : SamplerStep s t (i + 1)
  | same {i : Nat} (bit : s.seq.bit? = some i) (tmp : t.tmp = s.tmp) (bitp : t.bitp = s.bitp)
      (reached : t.seq = .rxSample i → t.tmp.target ≤ t.micros) : SamplerStep s t i

theorem bit?_rxLeaveLow (d : Draw) (s : State) : (rxLeaveLow d s).seq.bit? = none := by
  unfold rxLeaveLow
  dsimp only
  split <;> rfl

theorem bit?_rxWatch (d : Draw) (s : State) : (rxWatch d s).seq.bit? = none := by
  unfold rxWatch
  dsimp only
  split <;> rfl

theorem samplerStep_rxRecheck {i : Nat} {d : Draw} (h : (rxRecheck d s).seq.bit? = some i) :
    SamplerStep s (rxRecheck d s) i := by
  unfold rxRecheck at h ⊢
  dsimp only at h ⊢
  split at h
  · cases h
  · cases h
    rw [if_neg ‹_›]
    exact .first rfl (firstTarget_eq_sampleInstant ..)

theorem samplerStep_rxTarget {i j : Nat} {d : Draw} (hs : s.seq = .rxTarget j) (h : (rxTarget j d s).seq.bit? = some i) :
    SamplerStep s (rxTarget j d s) i := by
  unfold rxTarget at h ⊢
  dsimp only at h ⊢
  split at h
  · cases h
    rw [if_pos ‹_›]
    exact .same (by rw [hs]; rfl) rfl rfl nofun
  next hreached =>
    cases h
    rw [if_neg hreached]
    exact .same (by rw [hs]; rfl) rfl rfl fun _ => Nat.not_lt.mp hreached

theorem samplerStep_rxBudget {i : Nat} {p : Pos} {d : Draw} (hp : p.bit? = s.seq.bit?) (hs : ∀ j, p ≠ .rxSample j)
    (h : (rxBudget p d s).seq.bit? = some i) : SamplerStep s (rxBudget p d s) i := by
  unfold rxBudget at h ⊢
  dsimp only at h ⊢
  split at h
  · exact absurd (Pos.listening_of_bit? h) (ne_listening_of_mayDeliver (tickPart_retryTick _).mayDeliver)
  next hwithin =>
    rw [if_neg hwithin]
    exact .same (hp ▸ h) rfl rfl fun e => absurd e (hs i)

theorem samplerStep_rxSample {i j : Nat} {d : Draw} (hs : s.seq = .rxSample j) (h : rxSample j d s = .next t)
    (ht : t.seq.bit? = some i) : SamplerStep s t i := by
  unfold rxSample at h
  dsimp only at h
  split at h
  · exact absurd (Pos.listening_of_bit? ht) (received_ne_listening h)
  · cases h
    cases ht
    exact .later (by rw [hs]; rfl) rfl rfl rfl rfl

/-- Inversion of a primitive step to a position of phase (d). -/
theorem primitive_samplerStep {i : Nat} {d : Draw} (h : primitive d s = .next t) (ht : t.seq.bit? = some i) :
    SamplerStep s t i := by
  have hphase : s.seq.phase = .listening := by
    by_contra hs
    exact primitive_ne_listening h hs (Pos.listening_of_bit? ht)
  unfold primitive at h
  cases hs : s.seq with rw [hs] at h hphase
  | rxEnter | rxEdge | rxGlitchDelay => cases h; cases ht
  | rxLeaveLow => cases h; simp [bit?_rxLeaveLow] at ht
  | rxWatch => cases h; simp [bit?_rxWatch] at ht
  | rxLeaveLowBudget | rxWatchBudget | rxTargetBudget => cases h; exact samplerStep_rxBudget (by rw [hs]; rfl) nofun ht
  | rxRecheck => cases h; exact samplerStep_rxRecheck ht
  | rxTarget => cases h; exact samplerStep_rxTarget hs ht
  | rxSample => exact samplerStep_rxSample hs h ht
  | _ => cases hphase

/-- Settles O13: the three ways to come to a bit, each from the target as it was before. -/
theorem samplesAreTakenAtTheirTargets : Obligations.SamplesAreTakenAtTheirTargets := by
  intro d s t hs h
  have htarget (i : Nat) (hi : s.seq.bit? = some i) : s.tmp.target = sampleInstant s.tmp.edge s.bitp i :=
    hs i (Pos.bit?_eq_some_iff.mp hi)
  have key (i : Nat) (ht : t.seq.bit? = some i) :
      t.tmp.target = sampleInstant t.tmp.edge t.bitp i ∧ (t.seq = .rxSample i → t.tmp.target ≤ t.micros) := by
    cases primitive_samplerStep h ht with
    | first seq target => exact ⟨target, by simp [seq]⟩
    | later bit seq edge bitp target =>
      refine ⟨?_, by simp [seq]⟩
      rw [target, htarget _ bit, edge, bitp, sampleInstant_succ]
    | same bit tmp bitp reached =>
      refine ⟨?_, reached⟩
      rw [tmp, bitp, htarget _ bit]
  refine ⟨fun i hi => (key i (Pos.bit?_eq_some_iff.mpr hi)).1, fun i hi => ?_⟩
  obtain ⟨htarget, hreached⟩ := key i (Pos.bit?_eq_some_iff.mpr (.inr (.inr hi)))
  exact htarget.symm.trans_le (hreached hi)

/-! ### A quiet line (R147, R150, R261) -/

/-- The line is high, and both clocks show at least one more millisecond (R55, R56). -/
def Draw.quiet (d : Draw) : Prop := d.pulled = false ∧ 1 ≤ d.ms ∧ 1000 ≤ d.us

/-- Coupled or not, the answer of `Millis()` grows. -/
theorem readMillis_lt_of_quiet {d : Draw} (h : d.quiet) (s : State) : readMillis s < readMillis (elapsed [d] s) := by
  obtain ⟨-, hms, hus⟩ := h
  simp only [readMillis, elapsed, List.map_cons, List.map_nil, List.sum_cons, List.sum_nil]
  split <;> omega

theorem run_rxWatch_high {d : Draw} (x : Transient) (more : List Draw) (hd : s.drv = false) (hhigh : d.pulled = false) :
    run (d :: more) (listening .rxWatch x s) = run more (listening .rxWatchBudget x (elapsed [d] s)) :=
  run_cons_of_busy (by simp) (congrArg Host.Outcome.next (if_pos (lineHigh_of_free hhigh hd))) (by simp)

theorem run_rxWatchBudget {d : Draw} (x : Transient) (more : List Draw) (hf : s.feed = []) :
    run (d :: more) (listening .rxWatchBudget x s) = run more (rxBudget .rxWatch d (listening .rxWatchBudget x s)) :=
  run_cons_of_feed_nil (by simp) hf rfl

/-- A budget test within the bound (R150). -/
theorem rxBudget_within {x : Transient} {d : Draw} (again p : Pos)
    (h : readMillis (elapsed [d] s) ≤ x.t0 + s.straps.rxTimeoutMs) :
    rxBudget again d (listening p x s) = listening again x (elapsed [d] s) := by
  refine if_neg (Nat.not_lt.mpr (Nat.sub_le_iff_le_add'.mpr ?_))
  rw [tick_eq_elapsed]
  exact h

/-- A budget test past the bound ends the POLL, with no deadline watched (R212, R261). -/
theorem rxBudget_exceeded {x : Transient} {d : Draw} (again p : Pos) (hn : noDeadline s = true)
    (h : x.t0 + s.straps.rxTimeoutMs < readMillis (elapsed [d] s)) :
    rxBudget again d (listening p x s) = listening .idle x (elapsed [d] s) := by
  refine (if_pos (Nat.lt_sub_iff_add_lt'.mpr ?_)).trans (retryTick_none hn)
  rw [tick_eq_elapsed]
  exact h

/-- Phase (b) on a quiet line runs into the bound, and the POLL is complete, if the draws last until then. -/
theorem run_rxWatch_quiet (x : Transient) : ∀ (ds : List Draw) (s : State), s.drv = false → s.feed = [] →
    noDeadline s = true → (∀ d ∈ ds, d.quiet) → 2 ≤ ds.length →
    x.t0 + s.straps.rxTimeoutMs + 2 ≤ readMillis s + ds.length →
    ∃ us ms env, run ds (listening .rxWatch x s) =
      .next { listening .idle x s with env := env, micros := us, millis := ms }
  | [], _, _, _, _, _, h, _ => by simp at h
  | [_], _, _, _, _, _, h, _ => by simp at h
  | d :: e :: ds, s, hd, hf, hn, hquiet, _, hlast => by
    obtain ⟨hdq, heq, hquiet⟩ : d.quiet ∧ e.quiet ∧ ∀ d ∈ ds, d.quiet := by simpa [Draw.quiet] using hquiet
    have hgrows := readMillis_lt_of_quiet hdq s
    have hgrows' := readMillis_lt_of_quiet heq (elapsed [d] s)
    rw [run_rxWatch_high _ _ hd hdq.1, run_rxWatchBudget _ _ (by exact hf)]
    by_cases hbound : readMillis (elapsed [e] (elapsed [d] s)) ≤ x.t0 + s.straps.rxTimeoutMs
    · rw [rxBudget_within _ _ hbound]
      have hlast' : x.t0 + s.straps.rxTimeoutMs + 2 ≤ readMillis (elapsed [e] (elapsed [d] s)) + ds.length := by
        simp only [List.length_cons] at hlast
        omega
      obtain ⟨us, ms, env, hrun⟩ :=
        run_rxWatch_quiet x ds (elapsed [e] (elapsed [d] s)) hd hf hn hquiet (by omega) hlast'
      exact ⟨us, ms, env, hrun⟩
    · rw [rxBudget_exceeded (s := elapsed [d] s) _ _ hn (Nat.lt_of_not_le hbound), run_of_idle _ _ rfl]
      exact ⟨_, _, _, rfl⟩

/-- Settles O17: the look of phase (a) is high, and phase (b) runs into the bound. -/
theorem pollOnQuietLineChangesNothing : Obligations.PollOnQuietLineChangesNothing := by
  intro s hl hs hf hd hn hlen hquiet
  rw [exec_poll_of_wire hl]
  match henv : s.env with
  | [] | [_] => simp [henv] at hlen
  | d :: e :: ds =>
    rw [henv] at hlen hquiet
    obtain ⟨hdq, heq, hquiet⟩ : d.quiet ∧ e.quiet ∧ ∀ d ∈ ds, d.quiet := by simpa [Draw.quiet] using hquiet
    have hgrows := readMillis_lt_of_quiet heq (elapsed [d] s)
    simp only [List.length_cons] at hlen
    rw [run_rxEnter, run_rxLeaveLow_high (s := elapsed [d] s) _ _ hd heq.1]
    have hlast : readMillis (elapsed [d] s) + s.straps.rxTimeoutMs + 2 ≤
        readMillis (elapsed [e] (elapsed [d] s)) + ds.length := by omega
    obtain ⟨us, ms, env, hrun⟩ := run_rxWatch_quiet { s.tmp with t0 := readMillis (elapsed [d] s) } ds
      (elapsed [e] (elapsed [d] s)) hd hf hn hquiet (by omega) hlast
    refine ⟨us, ms, readMillis (elapsed [d] s), env, hrun.trans ?_⟩
    simp only [listening, elapsed, hs]

/-! ### A clean byte (R145 to R150) -/

/-- A wait loop looks at the clocks and the line only. -/
theorem waits_listening {holds : Draw → State → Bool} {p : Pos} {x : Transient}
    (hholds : ∀ d u, holds d (listening p x u) = holds d u) (t0 : Nat) :
    ∀ (ls : List (Draw × Draw)) (s : State), waits holds t0 ls (listening p x s) = waits holds t0 ls s
  | [], _ => rfl
  | (read, test) :: later, s => by
    simp only [waits, elapsed_listening, hholds, waits_listening hholds t0 later]
    rfl

theorem run_rxLeaveLow_waits {x : Transient} {ls : List (Draw × Draw)} (more : List Draw) (s : State)
    (hw : waits (fun d _ => d.pulled) x.t0 ls s = true) :
    run (looks ls ++ more) (listening .rxLeaveLow x s) = run more (listening .rxLeaveLow x (elapsed (looks ls) s)) :=
  run_lows ls more _ rfl ((waits_listening (fun _ _ => rfl) x.t0 ls s).trans hw)

theorem run_rxWatch_waits {x : Transient} {ls : List (Draw × Draw)} (more : List Draw) (hd : s.drv = false)
    (hw : waits (fun d _ => !d.pulled) x.t0 ls s = true) :
    run (looks ls ++ more) (listening .rxWatch x s) = run more (listening .rxWatch x (elapsed (looks ls) s)) :=
  run_highs ls more _ rfl hd ((waits_listening (fun _ _ => rfl) x.t0 ls s).trans hw)

/-- A low re-check is a start cell: the first target is set, and no bit of the byte yet (R148, R149). -/
theorem run_rxRecheck_low {d : Draw} (x : Transient) (more : List Draw) (hlow : d.pulled = true) (s : State) :
    run (d :: more) (listening .rxRecheck x s) = run more (listening (.rxTarget 0)
      { x with target := sampleInstant x.edge s.bitp 0, v := 0 } (elapsed [d] s)) := by
  have hprim : primitive d (listening .rxRecheck x s) = .next (listening (.rxTarget 0)
      { x with target := firstTarget x.edge s.bitp, v := 0 } (elapsed [d] s)) :=
    congrArg Host.Outcome.next (if_neg (by simp [lineHigh_of_pulled hlow]))
  rw [run_cons_of_busy (by simp) hprim (by simp), firstTarget_eq_sampleInstant]

/-- The bits of `b` below bit `i`. -/
def lowBits (b : Byte) (i : Nat) : Byte := (b.setWidth i).setWidth 8

theorem getElem_lowBits (b : Byte) (i : Nat) {j : Nat} (hj : j < 8) :
    (lowBits b i)[j] = (decide (j < i) && b[j]) := by
  simp [lowBits, BitVec.getLsbD_eq_getElem hj]

theorem getElem_setBit (v : Byte) (i : Nat) {j : Nat} (hj : j < 8) : (setBit v i)[j] = (v[j] || decide (j = i)) := by
  show (v ||| BitVec.twoPow 8 i)[j] = _
  rw [BitVec.getElem_or, BitVec.getElem_twoPow]

theorem lowBits_zero (b : Byte) : lowBits b 0 = 0 :=
  BitVec.eq_of_getElem_eq fun j hj => by simp [getElem_lowBits]

theorem lowBits_eight (b : Byte) : lowBits b 8 = b :=
  BitVec.eq_of_getElem_eq fun j hj => by simp [getElem_lowBits, hj]

/-- `v[i] <- 1` exactly if bit `i` is heard high (R149). -/
theorem lowBits_succ (b : Byte) {i : Nat} (hi : i < 8) :
    lowBits b (i + 1) = if b.getLsbD i then setBit (lowBits b i) i else lowBits b i := by
  rw [BitVec.getLsbD_eq_getElem hi]
  refine BitVec.eq_of_getElem_eq fun j hj => ?_
  obtain rfl | hne := eq_or_ne j i
  · cases h : b[j] <;> simp [getElem_lowBits, getElem_setBit, h]
  · have hlt : j < i + 1 ↔ j < i := by omega
    cases b[i] <;> simp [getElem_lowBits, getElem_setBit, hne, hlt]

theorem samples_length {b : Byte} {edge t0 : Nat} : ∀ {bits : List BitLooks} {i : Nat} {s : State},
    samples b edge t0 i bits s = true → i + bits.length = 8
  | [], i, s, h => by simpa [samples] using h
  | l :: later, i, s, h => by
    simp only [samples, Bool.and_eq_true] at h
    obtain ⟨-, hlater⟩ := h
    have hlength := samples_length hlater
    simp only [List.length_cons]
    omega

/-- The transients of phase (d) at bit `i`, the bits of `b` before it heard. -/
def sampling (b : Byte) (bitp i : Nat) (x : Transient) : Transient :=
  { x with target := sampleInstant x.edge bitp i, v := lowBits b i }

/-- The last bit sampled (R149, R152): the effect of receiving the byte. -/
theorem run_lastSample {x : Transient} {reach level : Draw} (more : List Draw) (hd : s.drv = false) (hf : s.feed = [])
    (hreach : x.target ≤ (elapsed [reach] s).micros) :
    run (reach :: level :: more) (listening (.rxTarget 7) x s) =
      exec (.byte (if level.pulled then x.v else setBit x.v 7)) (listening .idle { x with
        v := if level.pulled then x.v else setBit x.v 7
        target := x.target + s.bitp } { elapsed [reach, level] s with env := more }) :=
  run_lastBit reach level more _ rfl hd hreach hf

theorem run_sample {x : Transient} {reach level : Draw} {i : Nat} (more : List Draw) (hd : s.drv = false) (hi : i < 7)
    (hreach : x.target ≤ (elapsed [reach] s).micros) :
    run (reach :: level :: more) (listening (.rxTarget i) x s) =
      run more (listening (.rxTarget (i + 1)) { x with
        v := if level.pulled then x.v else setBit x.v i
        target := x.target + s.bitp } (elapsed [reach, level] s)) :=
  run_bit i reach level more _ rfl hd hi hreach

/-- What sampling bit `i` of `b` makes of the transients: those at the next bit. -/
theorem sampling_succ (b : Byte) (bitp : Nat) {i : Nat} (hi : i < 8) (x : Transient) {level : Draw}
    (hlevel : level.pulled = !b.getLsbD i) :
    ({ sampling b bitp i x with
      v := if level.pulled then (sampling b bitp i x).v else setBit (sampling b bitp i x).v i
      target := (sampling b bitp i x).target + bitp } : Transient) = sampling b bitp (i + 1) x := by
  have hv : (if level.pulled then lowBits b i else setBit (lowBits b i) i) = lowBits b (i + 1) := by
    rw [lowBits_succ b hi, hlevel]
    cases b.getLsbD i <;> rfl
  simp only [sampling, hv, sampleInstant_succ]

/-- Phase (d): each bit of `b` in turn, sampled in time, and what follows the last: the effect of receiving `b` (R149, R152). -/
theorem run_samples {b : Byte} (x : Transient) (more : List Draw) : ∀ (bits : List BitLooks) (i : Nat) (s : State),
    i < 8 → s.drv = false → s.feed = [] → samples b x.edge x.t0 i bits s = true →
    run (bits.flatMap BitLooks.draws ++ more) (listening (.rxTarget i) (sampling b s.bitp i x) s) =
      exec (.byte b) (listening .idle (sampling b s.bitp 8 x) { elapsed (bits.flatMap BitLooks.draws) s with env := more })
  | [], i, s, hi, _, _, h => by
    have hlength := samples_length h
    simp only [List.length_nil] at hlength
    omega
  | l :: later, i, s, hi, hd, hf, h => by
    have hlength := samples_length h
    simp only [samples, Bool.and_eq_true, decide_eq_true_eq, beq_iff_eq] at h
    obtain ⟨⟨⟨hearly, hreach⟩, hlevel⟩, hlater⟩ := h
    have hwaits := (waits_listening (p := .rxTarget i) (x := sampling b s.bitp i x) (fun _ _ => rfl) x.t0 l.early s).trans
      hearly
    have hnext := sampling_succ b s.bitp hi x hlevel
    have helapsed : elapsed [l.reach, l.level] (elapsed (looks l.early) s) = elapsed l.draws s := (elapsed_append ..).symm
    have hrun : run ((l :: later).flatMap BitLooks.draws ++ more) (listening (.rxTarget i) (sampling b s.bitp i x) s) =
        run (l.reach :: l.level :: (later.flatMap BitLooks.draws ++ more))
          (listening (.rxTarget i) (sampling b s.bitp i x) (elapsed (looks l.early) s)) := by
      simp only [List.flatMap_cons, BitLooks.draws, List.append_assoc]
      exact run_early i l.early _ _ rfl hwaits
    rw [elapsed_append] at hreach
    rw [hrun]
    by_cases hlast : i = 7
    · subst hlast
      obtain rfl : later = [] := List.length_eq_zero_iff.mp (by simp only [List.length_cons] at hlength; omega)
      have hv : (if l.level.pulled then (sampling b s.bitp 7 x).v else setBit (sampling b s.bitp 7 x).v 7) = b :=
        (congrArg Transient.v hnext).trans (lowBits_eight b)
      rw [run_lastSample (s := elapsed (looks l.early) s) _ hd hf hreach, helapsed, elapsed_bitp, hnext, hv,
        List.flatMap_singleton]
      rfl
    · rw [run_sample (s := elapsed (looks l.early) s) _ hd (by omega) hreach, helapsed, elapsed_bitp, hnext,
        List.flatMap_cons, elapsed_append]
      exact run_samples x more later (i + 1) (elapsed l.draws s) (by omega) hd hf hlater

/-- From its entry BT.RXBYTE waits out a low line and watches from the first high look on (R146). -/
theorem run_rxEnter_toWatch {x : Transient} {d0 d1 : Draw} {lows : List (Draw × Draw)} (more : List Draw)
    (hd : s.drv = false) (hlows : waits (fun d _ => d.pulled) (readMillis (elapsed [d0] s)) lows (elapsed [d0] s) = true)
    (hhigh : d1.pulled = false) :
    run (d0 :: (looks lows ++ d1 :: more)) (listening .rxEnter x s) = run more (listening .rxWatch
      { x with t0 := readMillis (elapsed [d0] s) } (elapsed (d0 :: looks lows ++ [d1]) s)) := by
  have helapsed : elapsed (d0 :: looks lows ++ [d1]) s = elapsed [d1] (elapsed (looks lows) (elapsed [d0] s)) := by
    rw [← elapsed_append, ← elapsed_append, List.singleton_append, List.cons_append]
  rw [run_rxEnter, run_rxLeaveLow_waits (x := { x with t0 := readMillis (elapsed [d0] s) }) _ _ hlows,
    run_rxLeaveLow_high _ _ (by exact hd) hhigh, helapsed]

/-- From there it waits for an edge, which is the one of a start cell (R147, R148). -/
theorem run_rxWatch_toTarget {x : Transient} {d2 d5 : Draw} {highs : List (Draw × Draw)} (d3 d4 : Draw) (more : List Draw)
    (hd : s.drv = false) (hhighs : waits (fun d _ => !d.pulled) x.t0 highs s = true) (hedge : d2.pulled = true)
    (hstart : d5.pulled = true) (b : Byte) :
    run (looks highs ++ d2 :: d3 :: d4 :: d5 :: more) (listening .rxWatch x s) = run more (listening (.rxTarget 0)
      (sampling b s.bitp 0 { x with edge := (elapsed (looks highs ++ [d2, d3]) s).micros })
      (elapsed (looks highs ++ [d2, d3, d4, d5]) (afterMicros (s.bitp / 4) s))) := by
  have helapsed : elapsed (looks highs ++ [d2, d3, d4, d5]) (afterMicros (s.bitp / 4) s) =
      elapsed [d5] (elapsed [d2, d3, d4] (afterMicros (s.bitp / 4) (elapsed (looks highs) s))) := by
    rw [afterMicros_elapsed, ← elapsed_append, ← elapsed_append]
    rfl
  rw [run_rxWatch_waits _ hd hhighs, run_rxWatch_low _ _ hedge, run_rxRecheck_low _ _ hstart, helapsed, elapsed_append]
  simp only [sampling, lowBits_zero]
  rfl

/-- Settles O16: the phases of BT.RXBYTE in turn, the sampler's effect being that of receiving the byte. -/
theorem pollReceivesTheByteOnTheWire : Obligations.PollReceivesTheByteOnTheWire := by
  intro b d0 d1 d2 d3 d4 d5 lows highs bits rest s hl hs hf hd t0 toEdge edge delayed calls hlows hhigh hhighs hedge hstart
    hsamples henv
  have hcalls : s.env = d0 :: (looks lows ++ d1 :: (looks highs ++ d2 :: d3 :: d4 :: d5 ::
      (bits.flatMap BitLooks.draws ++ rest))) := by
    simp [henv, calls, toEdge]
  have hedgeTime : edge = (elapsed (looks highs ++ [d2, d3]) (elapsed (d0 :: looks lows ++ [d1]) s)).micros := by
    rw [← elapsed_append]
    simp [edge, toEdge]
  have htarget : elapsed (toEdge ++ [d4, d5]) delayed = elapsed (looks highs ++ [d2, d3, d4, d5])
      (afterMicros (s.bitp / 4) (elapsed (d0 :: looks lows ++ [d1]) s)) := by
    rw [afterMicros_elapsed, ← elapsed_append]
    simp [toEdge, delayed, afterMicros]
  have hwatch := run_rxWatch_toTarget (s := elapsed (d0 :: looks lows ++ [d1]) s) (x := { s.tmp with t0 := t0 }) d3 d4
    (bits.flatMap BitLooks.draws ++ rest) hd hhighs hedge hstart b
  rw [← hedgeTime, elapsed_bitp, ← htarget] at hwatch
  have hsampler := run_samples { s.tmp with t0 := t0, edge := edge } rest bits 0 (elapsed (toEdge ++ [d4, d5]) delayed)
    (by decide) hd hf hsamples
  rw [exec_poll_of_wire hl, hcalls, run_rxEnter_toWatch _ hd hlows hhigh, hwatch.trans hsampler, ← elapsed_append]
  simp only [listening, sampling, lowBits_eight]
  rw [← hs]
  rfl

/-! ### What a SEND leaves behind its frame (R206) -/

/-- An untracked SEND whose frame is out: it responds and is complete, the draws left stay listed (R206). -/
theorem run_frameSent_of_not_claimsSlot {ack : Bool} (hs : s.seq = .idle) (hslot : claimsSlot ack s = false)
    (payload : List Byte) (len : Nat) (id : Byte) (ds : List Draw) :
    run ds (frameSent (.send payload len id ack) s) =
      .next { s with env := ds, responses := s.responses ++ [.byte id] } := by
  have hdone : frameSent (.send payload len id ack) s = goTo .idle (respond (.byte id) s) := if_neg (by simp [hslot])
  rw [hdone, run_of_idle _ _ rfl, ← hs]
  rfl

/-- A tracked SEND whose frame is out: the next draw answers its clock read, and the slot is filled (R206). -/
theorem run_frameSent_of_claimsSlot (hs : s.seq = .idle) (hf : s.feed = []) (hfree : s.pend.active = false)
    (payload : List Byte) (n : Nat) (id : Byte) (d : Draw) (rest : List Draw) :
    run (d :: rest) (frameSent (.send payload n id true) s) = .next { useDraw d rest s with
      responses := s.responses ++ [.byte id]
      pend := { active := true, needAck := true, type := 1, id := id, len := n, retries := 0,
                lastMs := readMillis (useDraw d rest s), payload := payload.take n ++ s.pend.payload.drop n } } := by
  have hslot : claimsSlot true s = true := by simp [claimsSlot, hfree]
  rw [frameSent_send_of_claimsSlot hslot, run_sendStamp _ _ _ (captureFrame payload n id s) hf, ← hs]
  rfl

/-- Settles O34: behind its frame the SEND is complete, and the draws it has left stay listed. -/
theorem untrackedSendGoesOutOnce : Obligations.UntrackedSendGoesOutOnce := by
  intro payload len ack s hs hf hbytes huntracked frame hc
  obtain ⟨stamp, hexec⟩ := exec_send_of_canSend ack hf hbytes hc
  have hseq : (sentState frame stamp (idDrawn s)).seq = .idle := (sentState_seq ..).trans hs
  have hpend : (sentState frame stamp (idDrawn s)).pend = s.pend := sentState_pend ..
  have hresponses : (sentState frame stamp (idDrawn s)).responses = s.responses := sentState_responses ..
  have henv : (sentState frame 0 s).env = (sentState frame stamp (idDrawn s)).env := (sentState_idDrawn_env ..).symm
  have hslot : claimsSlot ack (sentState frame stamp (idDrawn s)) = false := by
    unfold claimsSlot
    rw [hpend]
    exact huntracked
  refine ⟨stamp, ?_⟩
  rw [hexec, run_frameSent_of_not_claimsSlot hseq hslot, hresponses, henv]

/-- Settles O35: the frame is captured on the way to the clock read, which the next draw answers. -/
theorem trackedSendFillsTheSlot : Obligations.TrackedSendFillsTheSlot := by
  intro payload len s hs hf hbytes hfree n frame hc d rest henv
  obtain ⟨stamp, hexec⟩ := exec_send_of_canSend true hf hbytes hc
  have hseq : (sentState frame stamp (idDrawn s)).seq = .idle := (sentState_seq ..).trans hs
  have hfeed : (sentState frame stamp (idDrawn s)).feed = [] := (sentState_feed ..).trans hf
  have hpend : (sentState frame stamp (idDrawn s)).pend = s.pend := sentState_pend ..
  have hresponses : (sentState frame stamp (idDrawn s)).responses = s.responses := sentState_responses ..
  refine ⟨stamp, ?_⟩
  rw [hexec, henv, run_frameSent_of_claimsSlot hseq hfeed (hpend ▸ hfree), hpend, hresponses]
  rfl

/-! ### What a SEND still has to do (R143, R171, R206) -/

/-- The bytes FC.TXFRAME has not finished: the one inside BT.TXBYTE and those behind it. -/
def Pos.bytesLeft (p : Pos) : List Byte :=
  match p.tx? with
  | some tx => tx.byte :: tx.rest
  | none => []

/-- The cells not yet put on the wire. -/
def Pos.cellsLeft : Pos → List Bool
  | .cellPin level later tx => level :: later ++ tx.rest.flatMap cellsOfByte
  | .cellDelay later tx => later ++ tx.rest.flatMap cellsOfByte
  | p => p.bytesLeft.flatMap cellsOfByte

/-- The bit periods these take at least: ten cells a byte, and three more in each idle wait (R141, R142). -/
def Pos.periodsLeft : Pos → Nat
  | .cellPin _ later tx | .cellDelay later tx => later.length + 1 + 13 * tx.rest.length
  | p => 13 * p.bytesLeft.length

/-- A SEND is under way and will respond with the id, or there is nothing under way and nothing to respond. -/
inductive Pos.InSend : Pos → List Response → Prop
  | sending {p : Pos} {tx : Tx} {payload : List Byte} {len : Nat} {id : Byte} {ack : Bool} (tx? : p.tx? = some tx)
      (after : tx.after = .send payload len id ack) : p.InSend [.byte id]
  | stamping (id : Byte) : Pos.InSend (.sendStamp id) [.byte id]
  | done : Pos.InSend .idle []

/-- From when the periods left are to come: inside BT.IDLEWAIT from the last stamp on, which is not later than now (R141). -/
def State.since (s : State) : Nat := if s.seq.holdsHs then min s.tmp.hs s.micros else s.micros

/-- What a part of a SEND keeps: bytes, cells, responses and time, the ones that are out and the ones still to come together;
and the pin shows the last cell put on the wire. -/
structure SendPart (s t : State) : Prop where
  bitp  : t.bitp = s.bitp
  bytes : t.txBytes ++ t.seq.bytesLeft = s.txBytes ++ s.seq.bytesLeft
  cells : t.txCells ++ t.seq.cellsLeft = s.txCells ++ s.seq.cellsLeft
  time  : s.since + s.seq.periodsLeft * s.bitp ≤ t.since + t.seq.periodsLeft * s.bitp
  pin   : t.txCells = s.txCells ∧ t.drv = s.drv ∨ t.txCells.getLast? = some (!t.drv)
  responses : ∀ left, s.seq.InSend left → ∃ left', t.seq.InSend left' ∧ t.responses ++ left' = s.responses ++ left

theorem SendPart.refl (s : State) : SendPart s s :=
  ⟨rfl, rfl, rfl, le_rfl, .inl ⟨rfl, rfl⟩, fun left h => ⟨left, h, rfl⟩⟩

theorem SendPart.trans {u : State} (h : SendPart s t) (k : SendPart t u) : SendPart s u where
  bitp := k.bitp.trans h.bitp
  bytes := k.bytes.trans h.bytes
  cells := k.cells.trans h.cells
  time := h.time.trans (h.bitp ▸ k.time)
  pin := by
    obtain ⟨hcells, hdrv⟩ | hlast := k.pin
    · rw [hcells, hdrv]
      exact h.pin
    · exact .inr hlast
  responses := fun left hleft => by
    obtain ⟨left', hleft', hresponses⟩ := h.responses left hleft
    obtain ⟨left'', hleft'', hresponses'⟩ := k.responses left' hleft'
    exact ⟨left'', hleft'', hresponses'.trans hresponses⟩

theorem since_le_micros (s : State) : s.since ≤ s.micros := by
  unfold State.since
  split
  · exact min_le_right ..
  · exact le_rfl

theorem since_of_not_holdsHs (h : s.seq.holdsHs = false) : s.since = s.micros := by
  simp [State.since, h]

theorem Pos.InSend.of_tx? {p q : Pos} {tx tx' : Tx} {left : List Response} (h : p.InSend left) (hp : p.tx? = some tx)
    (hq : q.tx? = some tx') (hafter : tx'.after = tx.after) : q.InSend left := by
  cases h with
  | sending tx? after =>
    cases hp.symm.trans tx?
    exact .sending hq (hafter.trans after)
  | stamping | done => cases hp

theorem Pos.InSend.after_eq {p : Pos} {tx : Tx} {left : List Response} (h : p.InSend left) (hp : p.tx? = some tx) :
    ∃ payload len id ack, tx.after = .send payload len id ack ∧ left = [.byte id] := by
  cases h with
  | sending tx? after =>
    cases hp.symm.trans tx?
    exact ⟨_, _, _, _, after, rfl⟩
  | stamping | done => cases hp

/-- A step that takes `k` bit periods off those to come. -/
theorem SendPart.of_periods (k : Nat) (hbitp : t.bitp = s.bitp)
    (hbytes : t.txBytes ++ t.seq.bytesLeft = s.txBytes ++ s.seq.bytesLeft)
    (hcells : t.txCells ++ t.seq.cellsLeft = s.txCells ++ s.seq.cellsLeft)
    (hperiods : s.seq.periodsLeft = t.seq.periodsLeft + k) (hsince : s.since + k * s.bitp ≤ t.since)
    (hpin : t.txCells = s.txCells ∧ t.drv = s.drv ∨ t.txCells.getLast? = some (!t.drv))
    (hresponses : ∀ left, s.seq.InSend left →
      ∃ left', t.seq.InSend left' ∧ t.responses ++ left' = s.responses ++ left) :
    SendPart s t where
  bitp := hbitp
  bytes := hbytes
  cells := hcells
  time := by
    rw [hperiods, Nat.add_mul]
    omega
  pin := hpin
  responses := hresponses

/-- A caller that is still being served has its response still to give. -/
theorem owes_of_tx? {tx tx' : Tx} (hs : s.seq.tx? = some tx) (ht : t.seq.tx? = some tx') (hafter : tx'.after = tx.after)
    (hresponses : t.responses = s.responses) (left : List Response) (hleft : s.seq.InSend left) :
    ∃ left', t.seq.InSend left' ∧ t.responses ++ left' = s.responses ++ left :=
  ⟨left, hleft.of_tx? hs ht hafter, by rw [hresponses]⟩

theorem Pos.left_of_inIdleWait {p : Pos} (h : p.inIdleWait = true) :
    p.cellsLeft = p.bytesLeft.flatMap cellsOfByte ∧ p.periodsLeft = 13 * p.bytesLeft.length := by
  cases p with
  | idleEnter | idleRead | idleLow | idleCheck => exact ⟨rfl, rfl⟩
  | _ => cases h

theorem Pos.bytesLeft_of_tx? {p : Pos} {tx : Tx} (h : p.tx? = some tx) : p.bytesLeft = tx.byte :: tx.rest := by
  unfold Pos.bytesLeft
  rw [h]

/-- A step inside BT.IDLEWAIT leaves all there is to do. -/
theorem SendPart.of_inIdleWait {tx : Tx} {p : Pos} {us ms : Nat} {x : Transient} (hs : s.seq.inIdleWait = true)
    (hstx : s.seq.tx? = some tx) (hp : p.inIdleWait = true) (hptx : p.tx? = some tx)
    (hsince : s.since ≤ ({ s with seq := p, micros := us, millis := ms, tmp := x } : State).since) :
    SendPart s { s with seq := p, micros := us, millis := ms, tmp := x } := by
  have hbytes : p.bytesLeft = s.seq.bytesLeft := (Pos.bytesLeft_of_tx? hptx).trans (Pos.bytesLeft_of_tx? hstx).symm
  obtain ⟨hcells, hperiods⟩ := Pos.left_of_inIdleWait hs
  obtain ⟨hcells', hperiods'⟩ := Pos.left_of_inIdleWait hp
  refine .of_periods 0 rfl ?_ ?_ ?_ (by simpa using hsince) (.inl ⟨rfl, rfl⟩) (owes_of_tx? hstx hptx rfl rfl)
  · rw [hbytes]
  · rw [hcells, hcells', hbytes]
  · rw [hperiods, hperiods', hbytes]
    rfl

theorem sendPart_idleStamp {tx : Tx} (hs : s.seq.inIdleWait = true) (htx : s.seq.tx? = some tx) (d : Draw) :
    SendPart s (idleStamp tx d s) := by
  refine .of_inIdleWait hs htx rfl rfl ?_
  have hnow := since_le_micros s
  simp only [State.since, Pos.holdsHs, tick_micros, if_true, min_self] at hnow ⊢
  omega

/-- With the stamp kept, the later it gets the more time has gone by. -/
theorem since_le_of_holdsHs {p : Pos} {us ms : Nat} (hs : s.seq.holdsHs = true) (hp : p.holdsHs = true)
    (hus : s.micros ≤ us) : s.since ≤ ({ s with seq := p, micros := us, millis := ms } : State).since := by
  simp only [State.since, hs, hp, if_true]
  omega

theorem sendPart_idleRead {tx : Tx} (hs : s.seq = .idleRead tx) (d : Draw) : SendPart s (idleRead tx d s) := by
  have hwait : s.seq.inIdleWait = true := by rw [hs]; rfl
  have htx : s.seq.tx? = some tx := by rw [hs]; rfl
  have hstamp : s.seq.holdsHs = true := by rw [hs]; rfl
  unfold idleRead
  dsimp only
  split <;> exact .of_inIdleWait hwait htx rfl rfl (since_le_of_holdsHs hstamp rfl (Nat.le_add_right ..))

/-- BT.IDLEWAIT returns three bit periods after its last stamp, or goes on (R141). -/
theorem sendPart_idleCheck {tx : Tx} (hs : s.seq = .idleCheck tx) (d : Draw) : SendPart s (idleCheck tx d s) := by
  have hwait : s.seq.inIdleWait = true := by rw [hs]; rfl
  have htx : s.seq.tx? = some tx := by rw [hs]; rfl
  have hstamp : s.seq.holdsHs = true := by rw [hs]; rfl
  unfold idleCheck
  dsimp only
  split
  next hidle =>
    have hlate : s.since + 3 * s.bitp ≤ s.micros + d.us := by
      simp only [State.since, hstamp, if_true, idleOf, Config.idleFactor, tick_micros, tick_tmp, tick_bitp] at hidle ⊢
      omega
    rw [toCell_cellsOfByte]
    refine .of_periods 3 rfl ?_ ?_ ?_ hlate (.inl ⟨rfl, rfl⟩) (owes_of_tx? htx rfl rfl rfl) <;> rw [hs]
    · rfl
    · rfl
    · simp [Pos.periodsLeft, Pos.bytesLeft, Pos.tx?, bitsOfByte]
      omega
  next => exact .of_inIdleWait hwait htx rfl rfl (since_le_of_holdsHs hstamp rfl (Nat.le_add_right ..))

theorem sendPart_cellPin {level : Bool} {later : List Bool} {tx : Tx} (hs : s.seq = .cellPin level later tx) (d : Draw) :
    SendPart s (cellPin level later tx d s) := by
  refine .of_periods 0 rfl ?_ ?_ ?_ ?_ (.inr ?_) (owes_of_tx? (by rw [hs]; rfl) rfl rfl rfl)
  · rw [hs]
    rfl
  · rw [hs]
    exact List.append_assoc ..
  · rw [hs]
    rfl
  · rw [since_of_not_holdsHs (by rw [hs]; rfl), since_of_not_holdsHs rfl]
    simp [cellPin]
  · simp [cellPin, drivePin]

/-- Behind its last byte a SEND has its response to give, at its time stamp or at once (R206). -/
theorem sendPart_lastByte {b : Byte} {payload : List Byte} {len : Nat} {id : Byte} {ack : Bool}
    (hs : s.seq = .cellDelay [] ⟨b, [], .send payload len id ack⟩) {u : State} (hbitp : u.bitp = s.bitp)
    (hbytes : u.txBytes = s.txBytes ++ [b]) (hcells : u.txCells = s.txCells) (hdrv : u.drv = s.drv)
    (hresponses : u.responses = s.responses) (hlate : s.since + 1 * s.bitp ≤ u.micros) :
    SendPart s (frameSent (.send payload len id ack) u) := by
  have howes (left : List Response) (hleft : s.seq.InSend left) : left = [.byte id] := by
    obtain ⟨_, _, _, _, hafter, rfl⟩ := hleft.after_eq (tx := ⟨b, [], .send payload len id ack⟩) (by rw [hs]; rfl)
    cases hafter
    rfl
  have hbytes' : u.txBytes ++ [] = s.txBytes ++ s.seq.bytesLeft := by
    rw [hbytes, hs, List.append_nil]
    rfl
  have hcells' : u.txCells ++ [] = s.txCells ++ s.seq.cellsLeft := by
    rw [hcells, hs]
    rfl
  have hperiods : s.seq.periodsLeft = 0 + 1 := by rw [hs]; rfl
  unfold frameSent
  dsimp only
  split
  · refine .of_periods 1 hbitp hbytes' hcells' hperiods hlate (.inl ⟨hcells, hdrv⟩) fun left hleft => ?_
    exact ⟨[.byte id], .stamping id, by rw [howes left hleft, ← hresponses]; rfl⟩
  · refine .of_periods 1 hbitp hbytes' hcells' hperiods hlate (.inl ⟨hcells, hdrv⟩) fun left hleft => ?_
    exact ⟨[], .done, by rw [howes left hleft, ← hresponses, List.append_nil]; rfl⟩

/-- A cell has taken its bit period (R142); behind the last cell of the last byte the frame is out (R143, R171). -/
theorem sendPart_cellDelay {later : List Bool} {tx : Tx} {left : List Response} (hs : s.seq = .cellDelay later tx)
    (hsend : s.seq.InSend left) (d : Draw) : SendPart s (cellDelay later tx d s) := by
  have htx : s.seq.tx? = some tx := by rw [hs]; rfl
  have hlate : s.since + 1 * s.bitp ≤ (delay s.bitp d s).micros := by
    rw [since_of_not_holdsHs (by rw [hs]; rfl)]
    simp
  obtain _ | ⟨c, later⟩ := later
  · obtain ⟨payload, len, id, ack, hafter, -⟩ := hsend.after_eq htx
    obtain ⟨b, rest, after⟩ := tx
    cases hafter
    obtain _ | ⟨b', rest⟩ := rest
    · exact sendPart_lastByte hs (u := { delay s.bitp d s with txBytes := s.txBytes ++ [b] }) rfl rfl rfl rfl rfl hlate
    · refine .of_periods 1 rfl ?_ ?_ ?_ hlate (.inl ⟨rfl, rfl⟩) (owes_of_tx? htx rfl rfl rfl) <;> rw [hs]
      · exact List.append_assoc ..
      · rfl
      · simp [cellDelay, byteSent, Pos.periodsLeft, Pos.bytesLeft, Pos.tx?]
        omega
  · refine .of_periods 1 rfl ?_ ?_ ?_ hlate (.inl ⟨rfl, rfl⟩) (owes_of_tx? htx rfl rfl rfl) <;> rw [hs]
    · rfl
    · rfl
    · simp [cellDelay, Pos.periodsLeft]
      omega

/-- The time stamp of a tracked SEND, and its response (R206). -/
theorem sendPart_fillSlot {id : Byte} (hs : s.seq = .sendStamp id) (d : Draw) : SendPart s (fillSlot id (tick d s)) := by
  refine .of_periods 0 rfl ?_ ?_ ?_ ?_ (.inl ⟨rfl, rfl⟩) fun left hleft => ⟨[], .done, ?_⟩
  · rw [hs]; rfl
  · rw [hs]; rfl
  · rw [hs]; rfl
  · rw [since_of_not_holdsHs (by rw [hs]; rfl), since_of_not_holdsHs rfl]
    simp [fillSlot]
  · rw [hs] at hleft
    cases hleft with
    | sending tx? => cases tx?
    | stamping => simp [fillSlot]

theorem sendPart_primitive {d : Draw} {left : List Response} (hsend : s.seq.InSend left) (h : primitive d s = .next t) :
    SendPart s t := by
  unfold primitive at h
  cases hs : s.seq with rw [hs] at h
  | idle => cases h; exact .refl s
  | idleEnter | idleLow => cases h; exact sendPart_idleStamp (by rw [hs]; rfl) (by rw [hs]; rfl) d
  | idleRead => cases h; exact sendPart_idleRead hs d
  | idleCheck => cases h; exact sendPart_idleCheck hs d
  | cellPin => cases h; exact sendPart_cellPin hs d
  | cellDelay => cases h; exact sendPart_cellDelay hs hsend d
  | sendStamp => cases h; exact sendPart_fillSlot hs d
  | _ =>
    rw [hs] at hsend
    cases hsend with
    | sending tx? => cases tx?

/-- The draws a run leaves listed are no part of a SEND. -/
theorem sendPart_env (x : List Draw) (s : State) : SendPart s { s with env := x } :=
  ⟨rfl, rfl, rfl, le_rfl, .inl ⟨rfl, rfl⟩, fun left h => ⟨left, h, rfl⟩⟩

theorem sendPart_run : ∀ {ds : List Draw} {s t : State} {left : List Response}, s.seq.InSend left → s.feed = [] →
    run ds s = .next t → SendPart s t
  | [], s, t, _, _, _, h => by cases h; exact sendPart_env [] s
  | d :: ds, s, t, left, hsend, hf, h => by
    by_cases hs : s.seq = .idle
    · rw [run_idle _ _ _ hs] at h
      cases h
      exact sendPart_env (d :: ds) s
    · rw [run_settle hs] at h
      obtain ⟨u, hu, h⟩ := andThen_eq_next h
      obtain ⟨v, hv, hu⟩ := andThen_eq_next hu
      have hfeed : v.feed = [] := (primitive_feed hv).trans hf
      rw [settle_of_feed_nil hfeed] at hu
      cases hu
      have hpart := sendPart_primitive hsend hv
      obtain ⟨left', hsend', -⟩ := hpart.responses left hsend
      exact hpart.trans (sendPart_run hsend' hfeed h)

/-! ### A SEND that completes (R206, R331) -/

/-- A SEND that is not refused has the bytes it announces (U7). -/
theorem enough_bytes_of_exec_send {payload : List Byte} {len : Nat} {ack : Bool}
    (h : exec (.send payload len ack) s = .next t) : clampLen s.straps len ≤ payload.length := by
  by_contra hshort
  have hrefused : exec (.send payload len ack) s = .refused .payloadTooShort := if_pos (Nat.lt_of_not_le hshort)
  rw [hrefused] at h
  cases h

/-- On the wire a frame's last cell is a stop cell (R143). -/
theorem getLast?_flatMap_cellsOfByte {bytes : List Byte} (h : bytes ≠ []) :
    (bytes.flatMap cellsOfByte).getLast? = some true := by
  obtain rfl | ⟨before, b, rfl⟩ := List.eq_nil_or_concat bytes
  · exact absurd rfl h
  · have hstop : (cellsOfByte b).getLast? = some true := by
      rw [cellsOfByte, ← List.cons_append, List.getLast?_concat]
    simp [hstop]

theorem encodeFrame_length {p : Straps} {payload : List Byte} {len : Nat} (h : clampLen p len ≤ payload.length)
    (type id : Byte) : (encodeFrame p type id payload len).length = clampLen p len + 5 := by
  simp only [encodeFrame, List.length_append, List.length_cons, List.length_nil, List.length_take_of_le h]
  omega

/-- At the wire level FC.TXFRAME begins with the idle wait of the first byte (R143, R171). -/
theorem sendBytes_wire {bytes : List Byte} (hl : s.straps.level = .wire) (h : bytes ≠ []) (a : After) :
    ∃ tx, tx.byte :: tx.rest = bytes ∧ tx.after = a ∧ sendBytes bytes a s = goTo (.idleEnter tx) s := by
  obtain ⟨b, rest, rfl⟩ := List.exists_cons_of_ne_nil h
  refine ⟨⟨b, rest, a⟩, rfl, rfl, ?_⟩
  unfold sendBytes
  rw [hl]

/-- Settles O37: what the SEND has to do at its first idle wait is all out when nothing of it is left. -/
theorem completedSendWhateverTheLine : Obligations.CompletedSendWhateverTheLine := by
  intro payload len ack s t hl _ hf h hdone frame
  have hbytes := enough_bytes_of_exec_send h
  have hlength : frame.length = min len s.straps.maxPayload.val + 5 := encodeFrame_length hbytes ..
  have hne : frame ≠ [] := List.length_pos_iff.mp (by omega)
  obtain ⟨tx, htx, hafter, hsend⟩ := sendBytes_wire (s := idDrawn s) hl hne
    (.send payload (clampLen s.straps len) s.nextId ack)
  rw [exec_send_of_enough_bytes hbytes, hsend] at h
  have hpart := sendPart_run (s := goTo (.idleEnter tx) (idDrawn s)) (.sending rfl hafter) hf h
  obtain ⟨-, hsent, hcells, htime, hpin, howed⟩ := hpart
  obtain ⟨left, hleft, hresponses⟩ := howed [.byte s.nextId] (.sending rfl hafter)
  rw [hdone] at hsent hcells htime hleft
  have hbytesOut : t.txBytes = s.txBytes ++ frame := by
    rw [← htx, ← List.append_nil t.txBytes]
    exact hsent
  have hcellsOut : t.txCells = s.txCells ++ frame.flatMap cellsOfByte := by
    rw [← htx, ← List.append_nil t.txCells]
    exact hcells
  have hresponse : t.responses = s.responses ++ [.byte s.nextId] := by
    cases hleft with
    | sending tx? => cases tx?
    | done => rw [← List.append_nil t.responses]; exact hresponses
  have hreleased : t.drv = false := by
    have hstop := getLast?_flatMap_cellsOfByte hne
    obtain ⟨hsame, -⟩ | hlast := hpin
    · have hnone : frame.flatMap cellsOfByte = [] := List.self_eq_append_right.mp (hsame.symm.trans hcellsOut)
      simp [hnone] at hstop
    · simpa [hcellsOut, hstop] using hlast
  refine ⟨hbytesOut, hcellsOut, hresponse, hreleased, ?_⟩
  have hnoneLeft : Pos.idle.periodsLeft = 0 := rfl
  rw [since_of_not_holdsHs rfl, since_of_not_holdsHs (by rw [hdone]; rfl), hnoneLeft, Nat.zero_mul] at htime
  calc s.micros + (min len s.straps.maxPayload.val + 5) * (13 * s.bitp)
      = s.micros + 13 * (tx.byte :: tx.rest).length * s.bitp := by rw [htx, hlength]; ring
    _ ≤ t.micros := htime

end Sys2Proof.Machine
end

section
/-! The frame codec family (42_frame_codec.md): FC.RXSTEP byte by byte (R175 to R177), a frame with a wrong checksum (R197,
R264), and a SEND that announces more bytes than it brings (R170, U7). -/
namespace Sys2Proof.Machine

variable {s t : State}

/-! ### A byte before a frame's last one (R175 to R177, R212) -/

/-- Settles O19: each branch of the reassembly, then the retry tick, which looks at none of the registers written. -/
theorem reassemblyStepsAsStated : Obligations.ReassemblyStepsAsStated := by
  intro b s next
  refine ⟨fun h0 => ?_, fun h0 hout => ?_, fun h0 hl hu => ?_⟩
  · rw [received_start h0]
    by_cases hb : b = 0xA5
    · rw [hb, stepStart_start, retryTick_ticksFrom]
      rfl
    · rw [stepStart_other s hb, retryTick_ticksFrom, if_neg hb, ← h0]
  · rw [received_length h0, stepLength_out hout, retryTick_ticksFrom]
    rfl
  · rw [received_length h0, stepLength_in hl hu, retryTick_ticksFrom]
    rfl

/-- The row BYTE is one POLL's reception of its byte; it completes where no deadline is left for the POLL's ticks. -/
theorem exec_byte_of_no_tick {b : Byte} (hf : s.feed = []) (hr : received b s = .next (retryTick t))
    (ht : t.seq = .idle) (hn : noDeadline t = true) : exec (.byte b) s = .next t := by
  rw [retryTick_none hn, goTo_idle ht] at hr
  exact receiveFrame_of_idle ((receiveAll_singleton hf).trans hr) ht

/-- Settles O20: the branches of FC.RXSTEP short of PE.PROCESS, none of which makes a tick due. -/
theorem byteMovesReassembly : Obligations.ByteMovesReassembly := by
  intro b s hs hf hn
  refine ⟨fun h0 hb => ?_, fun h0 hb => ?_, fun h0 hl hu => ?_, fun h0 hout => ?_, fun h0 hmore => ?_⟩
  · exact exec_byte_of_no_tick hf (by rw [received_start h0, hb, stepStart_start]) hs hn
  · exact exec_byte_of_no_tick hf (by rw [received_start h0, stepStart_other s hb]) hs hn
  · exact exec_byte_of_no_tick hf (by rw [received_length h0, stepLength_in hl hu]) hs hn
  · exact exec_byte_of_no_tick hf (by rw [received_length h0, stepLength_out hout]) hs hn
  · exact exec_byte_of_no_tick (t := storeBody b s) hf (by rw [received_body h0, stepBody_more hmore]) hs hn

/-! ### A frame with a wrong checksum (R197, R264) -/

/-- A frame of any TYPE with a wrong checksum is dropped as it stands in `RXBUF`. -/
theorem receiveFrame_of_bad_checksum {length type id checksum : Byte} {payload : List Byte}
    (hs : s.seq = .idle) (hf : s.feed = []) (hn : noDeadline s = true) (h0 : s.rxState = .awaitingStart)
    (hb : s.rxBuf.length = maxBody s.straps) (hl : 3 ≤ length.toNat) (hu : length.toNat ≤ s.straps.maxPayload.val + 3)
    (hp : payload.length + 3 = length.toNat) (hck : checksum ≠ crcFrame length type id payload) :
    receiveFrame (frameBytes length type id payload checksum) s =
      .next (bodyStored length ([type, id] ++ payload ++ [checksum]) s) := by
  obtain ⟨hall, -⟩ := receiveAll_frame (type := type) (id := id) (checksum := checksum) s hs hn h0 hb hl hu hp
  exact receiveFrame_of_idle (hall.trans (process_bodyComplete_of_bad_checksum hs hf hn hp hck)) hs

/-- Settles O21: the three rows receive their frames alike. -/
theorem corruptFrameIsDropped : Obligations.CorruptFrameIsDropped :=
  fun _ _ _ _ _ hs hf hn h0 hb hl hu hp =>
    ⟨receiveFrame_of_bad_checksum hs hf hn h0 hb hl hu hp, receiveFrame_of_bad_checksum hs hf hn h0 hb hl hu hp,
      receiveFrame_of_bad_checksum hs hf hn h0 hb hl hu hp⟩

/-! ### A SEND with too few bytes (R170, U7) -/

/-- Settles O38: the guard of SEND comes before its first register write (D26). -/
theorem shortPayloadIsRefused : Obligations.ShortPayloadIsRefused := fun _ _ _ _ hshort => if_pos hshort

end Sys2Proof.Machine
end

section
/-! The protocol engine family (43_protocol_engine.md): the handler is given HELLO and DATA frames only (R203), whatever
the environment does and wherever a command is cut. -/
namespace Sys2Proof.Machine

variable {s t : State}

/-! ### The received body stays in `RXBUF` (R40) -/

theorem capturePeer_rxBuf (s : State) : (capturePeer s).rxBuf = s.rxBuf := by
  unfold capturePeer
  split <;> rfl

theorem matchAck_rxBuf (s : State) : (matchAck s).rxBuf = s.rxBuf := by
  unfold matchAck
  split <;> rfl

theorem filterDuplicate_rxBuf (s : State) : (filterDuplicate s).rxBuf = s.rxBuf := by
  unfold filterDuplicate
  split
  · split <;> rfl
  · rfl

theorem deliver_rxBuf (s : State) : (deliver s).rxBuf = s.rxBuf := by
  obtain h | ⟨e, h⟩ := deliver_cases s <;> rw [h]
  rfl

theorem endProcess_rxBuf (s : State) : (endProcess s).rxBuf = s.rxBuf := by
  unfold endProcess
  rw [retryTick_eq]
  rfl

theorem frameSent_rxBuf (a : After) (s : State) : (frameSent a s).rxBuf = s.rxBuf := by
  cases a with
  | send payload len id ack =>
    unfold frameSent
    dsimp only
    split <;> rfl
  | autoAck => exact (endProcess_rxBuf _).trans (deliver_rxBuf s)
  | retry | hello => rfl

theorem bodyType_congr (h : t.rxBuf = s.rxBuf) : bodyType t = bodyType s := by
  unfold bodyType rxByte
  rw [h]

theorem cellDelay_rxBuf (later : List Bool) (tx : Tx) (d : Draw) (s : State) :
    (cellDelay later tx d s).rxBuf = s.rxBuf := by
  obtain ⟨b, rest, after⟩ := tx
  cases later with
  | cons c later => rfl
  | nil =>
    cases rest with
    | cons b' rest => rfl
    | nil => exact frameSent_rxBuf after { delay s.bitp d s with txBytes := s.txBytes ++ [b] }

/-- Nothing is received while a frame goes out (R1). -/
theorem primitive_rxBuf_of_sending {a : After} {d : Draw} (hs : s.seq.phase = .sending a)
    (h : primitive d s = .next t) : t.rxBuf = s.rxBuf := by
  unfold primitive at h
  cases hp : s.seq with rw [hp] at h hs
  | idleEnter | idleLow | cellPin => cases h; rfl
  | idleRead =>
    cases h
    unfold idleRead
    dsimp only
    split <;> rfl
  | idleCheck =>
    cases h
    unfold idleCheck
    dsimp only
    split <;> rfl
  | cellDelay later tx => cases h; exact cellDelay_rxBuf later tx d s
  | _ => cases hs

/-! ### Only HELLO and DATA frames reach the handler (R203) -/

/-- From `s` to `t` the handler was given HELLO and DATA frames only. -/
def HandsOver (s t : State) : Prop := ∃ new, t.events = s.events ++ new ∧ ∀ e ∈ new, e.type = 0 ∨ e.type = 1

theorem HandsOver.of_same_events (h : t.events = s.events) : HandsOver s t := ⟨[], by simp [h], nofun⟩

theorem HandsOver.trans {u : State} (h : HandsOver s t) (k : HandsOver t u) : HandsOver s u := by
  obtain ⟨new, hnew, hty⟩ := h
  obtain ⟨new', hnew', hty'⟩ := k
  refine ⟨new ++ new', by rw [hnew', hnew, List.append_assoc], fun e he => ?_⟩
  exact (List.mem_append.mp he).elim (hty e) (hty' e)

/-- While the automatic ACK goes out, the body it acknowledges is a HELLO or DATA body (R201). -/
def AcksHelloOrData (s : State) : Prop :=
  s.seq.phase = .sending .autoAck → bodyType s = Config.typeHello ∨ bodyType s = Config.typeData

theorem AcksHelloOrData.of_not_mayDeliver (h : s.seq.phase.mayDeliver = false) : AcksHelloOrData s := by
  intro hack
  rw [hack] at h
  cases h

/-- What a part of a command does: the handler is given HELLO and DATA frames only, and if an ACK is under way behind it, it
acknowledges one. -/
structure HandlerPart (s t : State) : Prop where
  handsOver : HandsOver s t
  acks      : AcksHelloOrData t

theorem HandlerPart.of_same_events {u : State} (h : HandlerPart u t) (hu : u.events = s.events) : HandlerPart s t :=
  ⟨(HandsOver.of_same_events hu).trans h.handsOver, h.acks⟩

theorem HandlerPart.of_silent (hevents : t.events = s.events) (hphase : t.seq.phase.mayDeliver = false) :
    HandlerPart s t := ⟨.of_same_events hevents, .of_not_mayDeliver hphase⟩

theorem TickPart.handlerPart (h : TickPart s t) : HandlerPart s t := .of_silent h.silent h.mayDeliver

/-- PE.PROCESS steps 6 and 7 pass on no ACK (R203). -/
theorem handsOver_deliver (h : knownType (bodyType s) = true) : HandsOver s (deliver s) := by
  unfold deliver
  split
  · exact .of_same_events rfl
  split
  next hgiven =>
    refine ⟨[_], rfl, fun e he => ?_⟩
    obtain rfl := List.mem_singleton.mp he
    exact ((knownType_iff _).mp h).imp_right (Or.resolve_right · hgiven.1)
  next => exact .of_same_events rfl

theorem handlerPart_endProcess_deliver (h : knownType (bodyType s) = true) : HandlerPart s (endProcess (deliver s)) :=
  have htick := tickPart_endProcess (deliver s)
  ⟨(handsOver_deliver h).trans (.of_same_events htick.silent), .of_not_mayDeliver htick.mayDeliver⟩

/-- The automatic ACK of a HELLO or DATA body, at either level (R201). -/
theorem handlerPart_autoAck (x : List Byte) (h : bodyType s = Config.typeHello ∨ bodyType s = Config.typeData) :
    HandlerPart s (sendBytes x .autoAck s) := by
  obtain ⟨p, -, hsend⟩ | ⟨sent, hsend⟩ := sendBytes_cases x .autoAck s <;> rw [hsend]
  · exact ⟨.of_same_events rfl, fun _ => h⟩
  · exact (handlerPart_endProcess_deliver (s := { s with txBytes := sent })
      ((knownType_iff _).mpr (h.imp_right .inl))).of_same_events rfl

theorem handlerPart_process (h : process s = .next t) : HandlerPart s t := by
  have hsame := ((alike_capturePeer s).trans (alike_matchAck _)).trans (alike_filterDuplicate _)
  have htype : bodyType (filterDuplicate (matchAck (capturePeer s))) = bodyType s := bodyType_congr
    ((filterDuplicate_rxBuf _).trans ((matchAck_rxBuf _).trans (capturePeer_rxBuf s)))
  unfold process at h
  generalize filterDuplicate (matchAck (capturePeer s)) = u at h hsame htype
  split at h
  · cases h; exact (tickPart_endProcess s).handlerPart
  split at h
  · cases h
  next hknown =>
    have hknown : knownType (bodyType s) = true := by simpa using hknown
    dsimp only at h
    split at h
    · cases h
      exact (handlerPart_endProcess_deliver (htype ▸ hknown)).of_same_events hsame.events
    next hack =>
      cases h
      have hbody := ((knownType_iff _).mp hknown).imp_right (Or.resolve_right · hack)
      exact (handlerPart_autoAck _ (htype ▸ hbody)).of_same_events hsame.events

/-- A byte received, wherever the block was. -/
theorem handlerPart_received {b : Byte} (h : received b s = .next t) : HandlerPart s t := by
  obtain hs | hs | hs := rxState_cases s
  · rw [received_start hs] at h
    cases h
    exact (tickPart_retryTick _).handlerPart.of_same_events (alike_stepStart b s).events
  · rw [received_length hs] at h
    cases h
    exact (tickPart_retryTick _).handlerPart.of_same_events (alike_stepLength b s).events
  · rw [received_body hs] at h
    by_cases hlast : s.rxIdx + 1 = s.rxLen.toNat
    · rw [stepBody_last hlast] at h
      exact (handlerPart_process h).of_same_events rfl
    · rw [stepBody_more hlast] at h
      cases h
      exact (tickPart_retryTick _).handlerPart.of_same_events rfl

theorem handlerPart_rxStart (h : rxStart s = .next t) : HandlerPart s t := by
  unfold rxStart at h
  split at h
  · cases h; exact ⟨.of_same_events rfl, nofun⟩
  · exact (handlerPart_received h).of_same_events rfl
  · cases h; exact (tickPart_retryTick s).handlerPart

theorem handlerPart_frameSent {a : After}
    (ha : a = .autoAck → bodyType s = Config.typeHello ∨ bodyType s = Config.typeData) : HandlerPart s (frameSent a s) := by
  cases a with
  | send payload len id ack =>
    obtain ⟨hsame, -, hdeliver, -⟩ := frameSent_send payload len id ack s
    exact .of_silent hsame.events hdeliver
  | autoAck => exact handlerPart_endProcess_deliver ((knownType_iff _).mpr ((ha rfl).imp_right .inl))
  | retry => exact (tickPart_frameSent_retry s).handlerPart
  | hello => exact .of_silent rfl rfl

theorem handlerPart_primitive {d : Draw} (hs : AcksHelloOrData s) (h : primitive d s = .next t) : HandlerPart s t := by
  have hbody {a : After} (ha : s.seq.phase = .sending a) : bodyType t = bodyType s :=
    bodyType_congr (primitive_rxBuf_of_sending ha h)
  have hstep := primitive_phaseStep h
  generalize hph : s.seq.phase = ph at hstep
  cases hstep with
  | stays same phase =>
    refine ⟨.of_same_events same.events, fun hack => ?_⟩
    have hack' : s.seq.phase = .sending .autoAck := by rw [hph, ← phase, hack]
    rw [hbody hack']
    exact hs hack'
  | timeout same next => exact next ▸ (tickPart_retryTick _).handlerPart.of_same_events same.events
  | heard same next => exact (handlerPart_received next).of_same_events same.events
  | @sent a u same next =>
    subst next
    refine (handlerPart_frameSent fun ha => ?_).of_same_events same.events
    rw [← bodyType_congr (frameSent_rxBuf a u), hbody hph]
    exact hs (ha ▸ hph)
  | sendStamp same next => exact next ▸ .of_silent same.events rfl
  | retryNow same next => exact next ▸ (tickPart_retryDue _).handlerPart.of_same_events same.events
  | retryStamp same next => exact next ▸ (tickPart_retryStamped _).handlerPart.of_same_events same.events
  | @helloNow u same next =>
    have hpart := helloPart_helloDue u
    exact next ▸ .of_silent (hpart.events.trans same.events) hpart.mayDeliver
  | helloStamp same next => exact next ▸ .of_silent same.events rfl

/-- The relation whose induction over a run is the claim. -/
def KeepsHandler (s t : State) : Prop := AcksHelloOrData s → HandlerPart s t

theorem KeepsHandler.trans {u : State} (h : KeepsHandler s t) (k : KeepsHandler t u) : KeepsHandler s u := by
  intro hs
  have hst := h hs
  have htu := k hst.acks
  exact ⟨hst.handsOver.trans htu.handsOver, htu.acks⟩

theorem KeepsHandler.frame {feed : List Byte} {env : List Draw} {freeCtr : Nat} :
    KeepsHandler s { s with feed := feed, env := env, freeCtr := freeCtr } := fun hs => ⟨.of_same_events rfl, hs⟩

theorem keepsHandler_run {ds : List Draw} (h : run ds s = .next t) : KeepsHandler s t :=
  run_rel (R := KeepsHandler) (fun _ => KeepsHandler.frame) (fun _ _ _ => KeepsHandler.trans)
    (fun _ _ => KeepsHandler.frame) (fun _ _ => KeepsHandler.frame) (fun _ _ _ hr _ => handlerPart_received hr)
    (fun _ _ _ hp hs => handlerPart_primitive hs hp) ds s t h

theorem keepsHandler_receiveAll {bytes : List Byte} (h : receiveAll bytes s = .next t) : KeepsHandler s t :=
  receiveAll_rel (R := KeepsHandler) (fun _ => KeepsHandler.frame) (fun _ _ _ => KeepsHandler.trans)
    (fun _ _ => KeepsHandler.frame) (fun _ _ _ hr _ => handlerPart_received hr) bytes s t h

theorem keepsHandler_resume (h : resume s = .next t) : KeepsHandler s t := by
  unfold resume at h
  split at h
  · exact KeepsHandler.frame.trans (keepsHandler_run h)
  · exact keepsHandler_run h

theorem handsOver_begin {o : Out} (ho : ∀ u, o = .next u → HandlerPart s u) (h : begin o = .next t) :
    HandsOver s t := by
  obtain ⟨u, hu, h⟩ := andThen_eq_next h
  have hbegun := ho u hu
  exact hbegun.handsOver.trans (keepsHandler_run h hbegun.acks).handsOver

theorem acksHelloOrData_of_idle (hs : s.seq = .idle) : AcksHelloOrData s := by
  unfold AcksHelloOrData
  rw [hs]
  nofun

theorem handsOver_receiveFrame {bytes : List Byte} (hs : s.seq = .idle) (h : receiveFrame bytes s = .next t) :
    HandsOver s t :=
  handsOver_begin (fun _ hu => keepsHandler_receiveAll hu (acksHelloOrData_of_idle hs)) h

theorem handsOver_init {hello : Bool} (h : execInit hello s = .next t) : HandsOver s t := by
  unfold execInit at h
  split at h
  · refine handsOver_begin (fun u hu => ?_) h
    cases hu
    have hpart := helloPart_sendHello s
    exact .of_silent hpart.events hpart.mayDeliver
  · cases h; exact .of_same_events rfl

theorem handlerPart_sendBytes_send (x payload : List Byte) (len : Nat) (id : Byte) (ack : Bool) (s : State) :
    HandlerPart s (sendBytes x (.send payload len id ack) s) := by
  obtain ⟨p, hp, h⟩ | ⟨sent, h⟩ := sendBytes_cases x (.send payload len id ack) s <;> rw [h]
  · exact .of_silent rfl (by rw [goTo_seq, hp]; rfl)
  · have hcaller := handlerPart_frameSent (a := .send payload len id ack) (s := { s with txBytes := sent }) nofun
    exact hcaller.of_same_events rfl

theorem handsOver_send {payload : List Byte} {len : Nat} {ack : Bool} (h : execSend payload len ack s = .next t) :
    HandsOver s t := by
  unfold execSend at h
  dsimp only at h
  split at h
  · cases h
  · refine handsOver_begin (fun u hu => ?_) h
    cases hu
    exact (handlerPart_sendBytes_send _ _ _ _ _ (newId s)).of_same_events rfl

theorem handsOver_exec {i : Instr} (hs : s.seq = .idle) (h : exec i s = .next t) : HandsOver s t := by
  cases i with
  | byte => exact handsOver_receiveFrame hs h
  | hello => exact handsOver_receiveFrame hs h
  | data => exact handsOver_receiveFrame hs h
  | ack => exact handsOver_receiveFrame hs h
  | init => exact handsOver_init h
  | poll => exact handsOver_begin (fun _ hu => handlerPart_rxStart hu) h
  | send => exact handsOver_send h
  | setq =>
    simp only [exec, execSetq] at h
    split at h <;> cases h
    exact .of_same_events rfl
  | getpeerid =>
    simp only [exec, execGetpeerid] at h
    split at h <;> cases h <;> exact .of_same_events rfl
  | sethandler | setackto | setmaxretry | sethelloint | getid | getpeerknown => cases h; exact .of_same_events rfl

/-- In a state of the invariant an automatic ACK under way is one of a HELLO or DATA body (R201, R275). -/
theorem Invariant.acksHelloOrData (h : Invariant s) : AcksHelloOrData s := by
  intro hack
  obtain ⟨-, -, hbody⟩ := h.reassembly
  suffices hsends : s.seq.sendsAck = true by
    obtain ⟨-, -, htype⟩ := hbody hsends
    exact htype
  cases hp : s.seq with rw [hp] at hack
  | idleEnter tx | idleRead tx | idleLow tx | idleCheck tx | cellPin _ _ tx | cellDelay _ tx =>
    obtain ⟨b, rest, after⟩ := tx
    cases hack
    rfl
  | _ => cases hack

/-- Settles O58: in a step from a state of the invariant, each part of a command hands over HELLO and DATA frames only. -/
theorem onlyHelloAndDataReachTheHandler : Obligations.OnlyHelloAndDataReachTheHandler := by
  intro s t hinv hstep
  obtain ⟨-, -, rfl⟩ | ⟨_, rest, _, hr, -, -, he⟩ | ⟨_, rest, _, _, hr, -, -, hf⟩ | ⟨-, hr⟩ := step_cases hstep
  · exact HandsOver.of_same_events rfl
  · exact handsOver_exec (s := { s with port := rest }) ((ready_iff s).mp hr) he
  · exact handsOver_receiveFrame (s := { s with port := rest }) ((ready_iff s).mp hr) hf
  · exact (keepsHandler_resume hr hinv.acksHelloOrData).handsOver

end Sys2Proof.Machine
end

section
/-! The protocol engine family: PE.PROCESS where it stops at a test (R197, R214), and where the body is an ACK (R199,
R274). -/
namespace Sys2Proof.Machine

variable {s t : State}

/-! ### What stands in a complete body -/

theorem validBody_iff (s : State) : validBody s = true ↔
    crcFold (s.rxLen :: s.rxBuf.take (s.rxLen.toNat - 1)) = s.rxBuf.getD (s.rxLen.toNat - 1) 0 := beq_iff_eq

/-- With the last body byte stored, the fold runs over the bytes before it and is compared with it (R177, R178). -/
theorem validBody_storeBody_iff {b : Byte} (hlast : s.rxIdx + 1 = s.rxLen.toNat) : validBody (storeBody b s) = true ↔
    crcFold (s.rxLen :: (s.rxBuf.set s.rxIdx b).take s.rxIdx) = (s.rxBuf.set s.rxIdx b).getD s.rxIdx 0 := by
  have hidx : s.rxIdx = s.rxLen.toNat - 1 := by omega
  rw [validBody_iff, storeBody_rxLen, ← hidx]
  rfl

/-- FC.RXSTEP after PE.PROCESS and the ticks after it, in the terms of the claims (R177, R212). -/
theorem endProcess_ticksFrom (s : State) : endProcess s = { s with
    rxState := .awaitingStart
    rxIdx := 0
    seq := ticksFrom (s.pend.active && s.pend.needAck) s } := retryTick_ticksFrom (resetReassembly s)

/-! ### Bodies that stop at a test (R197, R214) -/

/-- Settles O25: the last byte hands the body to PE.PROCESS, whose two tests it meets. -/
theorem reservedTypeIsRefused : Obligations.ReservedTypeIsRefused := by
  intro b s h0 hlast hvalid htype
  have hprocess : process (storeBody b { s with feed := [] }) = .refused .reservedFrameType :=
    process_of_reserved_type ((validBody_storeBody_iff (s := { s with feed := [] }) hlast).mpr hvalid)
      (knownType_of_unassigned htype)
  exact receiveFrame_of_refused ((receiveAll_last h0 hlast).trans hprocess)

/-- Settles O26: PE.PROCESS returns at its first test. -/
theorem badChecksumStopsProcessing : Obligations.BadChecksumStopsProcessing := by
  intro s hbad
  have hinvalid : validBody s = false := Bool.eq_false_iff.mpr fun hvalid => hbad ((validBody_iff s).mp hvalid)
  rw [process_of_bad_checksum hinvalid, endProcess_ticksFrom]

/-! ### An ACK body (R199) -/

theorem capturePeer_of_ne_hello (h : bodyType s ≠ Config.typeHello) : capturePeer s = s := if_neg fun hc => h hc.1

theorem matchAck_of_ne_ack (h : bodyType s ≠ Config.typeAck) : matchAck s = s := if_neg fun hc => h hc.1

theorem matchAck_of_not_pendWaits (h : pendWaits s = false) : matchAck s = s :=
  if_neg fun ⟨_, hw, _⟩ => by simp [h] at hw

theorem filterDuplicate_of_ne_data (h : bodyType s ≠ Config.typeData) : filterDuplicate s = setDup false s := if_neg h

theorem deliver_of_ack (h : bodyType s = Config.typeAck) : deliver s = s := by
  unfold deliver
  split
  · rfl
  · exact if_neg fun hc => hc.1 h

/-- PE.PROCESS of a validated ACK body: step 3, and nothing else. -/
theorem process_of_ack (hvalid : validBody s = true) (hack : bodyType s = Config.typeAck) :
    process s = .next (endProcess (setDup false (matchAck s))) := by
  have hmatched : bodyType (matchAck s) = Config.typeAck := (bodyType_congr (matchAck_rxBuf s)).trans hack
  have hcaptured : capturePeer s = s := capturePeer_of_ne_hello (by rw [hack]; decide)
  have hfiltered : filterDuplicate (matchAck s) = setDup false (matchAck s) :=
    filterDuplicate_of_ne_data (by rw [hmatched]; decide)
  have hdelivered : deliver (setDup false (matchAck s)) = setDup false (matchAck s) := deliver_of_ack hmatched
  unfold process
  rw [if_neg (by simp [hvalid]), if_neg (by simp [hack, knownType])]
  dsimp only
  rw [if_pos hack, hcaptured, hfiltered, hdelivered]

/-- The slot stays active exactly if it was and the ACK does not match it. -/
theorem matchAck_of_ack (hack : bodyType s = Config.typeAck) : matchAck s =
    { s with pend := { s.pend with active := s.pend.active && !(s.pend.needAck && s.pend.id == bodyId s) } } := by
  unfold matchAck
  split
  next hmatch =>
    obtain ⟨-, hwaits, hid⟩ := hmatch
    obtain ⟨-, hneeds⟩ := Bool.and_eq_true_iff.mp hwaits
    simp [releaseSlot, hneeds, hid]
  next hno =>
    have hkept : (s.pend.active && !(s.pend.needAck && s.pend.id == bodyId s)) = s.pend.active := by
      cases ha : s.pend.active with
      | false => rfl
      | true => simpa [hack, pendWaits, ha, imp_iff_not_or] using hno
    rw [hkept]

/-- Settles O27: what step 3 leaves of the slot decides where the POLL goes on. -/
theorem ackMatchingAsStated : Obligations.AckMatchingAsStated := by
  intro s hvalid hack still
  rw [process_of_ack ((validBody_iff s).mpr hvalid) hack, matchAck_of_ack hack, endProcess_ticksFrom]
  rfl

/-- A matching ACK with periodic HELLO off completes the POLL, wherever the clock stands (R212, R274 case 1). -/
theorem process_of_matching_ack (hvalid : validBody s = true) (hack : bodyType s = Config.typeAck)
    (hw : pendWaits s = true) (hid : s.pend.id = bodyId s) (hz : s.helloInt = 0) : process s = .next { s with
      rxState := .awaitingStart
      rxIdx := 0
      seq := .idle
      pend := { s.pend with active := false }
      tmp := { s.tmp with dup := false } } := by
  have hmatched : matchAck s = releaseSlot s := if_pos ⟨hack, hw, hid⟩
  rw [process_of_ack hvalid hack, hmatched, endProcess_ticksFrom]
  simp [ticksFrom, hz, releaseSlot, setDup]

/-- Settles O33: nothing between the ACK's last byte and the end of its POLL reads the clock. -/
theorem ackBeatsTheDeadline : Obligations.AckBeatsTheDeadline := by
  intro b s hs hf hz h0 hlast hmin hbuf hck htype hid hactive hneeds
  have hstored (i : Nat) (hi : i < s.rxIdx) : rxByte (storeBody b s) i = s.rxBuf.getD i 0 := by
    simp [rxByte, storeBody, List.getElem?_set_ne (Nat.ne_of_gt hi)]
  have hvalid : validBody (storeBody b s) = true := by
    rw [validBody_storeBody_iff hlast, List.take_set_of_le (Nat.le_refl _), ← hck]
    simp [List.getElem?_set_self (show s.rxIdx < s.rxBuf.length by omega)]
  have hprocess := process_of_matching_ack hvalid ((hstored 0 (by omega)).trans htype)
    (show pendWaits (storeBody b s) = true by simp [pendWaits, hactive, hneeds])
    (((hstored 1 (by omega)).trans hid).symm) hz
  have hreceived : received b s = .next _ := (received_body h0).trans ((stepBody_last hlast).trans hprocess)
  refine (receiveFrame_of_idle ((receiveAll_singleton hf).trans hreceived) rfl).trans ?_
  rw [← hs]
  rfl

end Sys2Proof.Machine
end

section
/-! The protocol engine family: HELLO and DATA bodies (R198, R200 to R203), in every state and as whole frames. -/
namespace Sys2Proof.Machine

variable {s t : State}

/-! ### Steps 2 to 5 of PE.PROCESS for a HELLO or DATA body -/

/-- The registers steps 2 and 4 leave: the peer of a HELLO (R198), the last accepted id of a DATA frame (R200). -/
def accepted (s : State) : State := { s with
  peerKnown := s.peerKnown || decide (bodyType s = 0 ∧ 1 ≤ bodySize s)
  peerId := if bodyType s = 0 ∧ 1 ≤ bodySize s then rxByte s 2 else s.peerId
  lastValid := s.lastValid || decide (bodyType s = 1)
  lastId := if bodyType s = 1 then bodyId s else s.lastId
  tmp := { s.tmp with dup := decide (bodyType s = 1) && s.lastValid && s.lastId == bodyId s } }

theorem accepted_of_hello (h : bodyType s = 0) : filterDuplicate (capturePeer s) = accepted s := by
  have htype : bodyType (capturePeer s) = 0 := (bodyType_congr (capturePeer_rxBuf s)).trans h
  rw [filterDuplicate_of_ne_data (by rw [htype]; decide)]
  unfold capturePeer
  by_cases hn : 1 ≤ bodySize s
  · rw [if_pos ⟨h, hn⟩]
    simp [accepted, setDup, recordPeer, h, hn]
  · rw [if_neg fun hc => hn hc.2]
    simp [accepted, setDup, h, hn]

theorem accepted_of_data (h : bodyType s = 1) : filterDuplicate (capturePeer s) = accepted s := by
  rw [capturePeer_of_ne_hello (by rw [h]; decide)]
  unfold filterDuplicate
  rw [if_pos (by exact h)]
  by_cases hdup : isDuplicate (bodyId s) s = true
  · obtain ⟨hv, hid⟩ := Bool.and_eq_true_iff.mp hdup
    rw [if_pos hdup]
    simp [accepted, setDup, h, hv, ← beq_iff_eq.mp hid]
  · rw [if_neg hdup]
    have hfresh : (s.lastValid && s.lastId == bodyId s) = false := Bool.eq_false_iff.mpr hdup
    simp [accepted, acceptId, setDup, h, hfresh]

/-- PE.PROCESS of a validated HELLO or DATA body up to its automatic ACK (R201). -/
theorem process_of_helloOrData (hvalid : validBody s = true) (htype : bodyType s = 0 ∨ bodyType s = 1) :
    process s = .next (sendBytes (ackBytes (bodyId s)) .autoAck (accepted s)) := by
  have hne : bodyType s ≠ Config.typeAck := by obtain h | h := htype <;> rw [h] <;> decide
  have hmatched : matchAck (capturePeer s) = capturePeer s :=
    matchAck_of_ne_ack (by rwa [bodyType_congr (capturePeer_rxBuf s)])
  have haccepted : filterDuplicate (capturePeer s) = accepted s := htype.elim accepted_of_hello accepted_of_data
  have hknown : knownType (bodyType s) = true := (knownType_iff _).mpr (htype.imp_right .inl)
  unfold process
  rw [if_neg (by simp [hvalid]), if_neg (by simp [hknown])]
  dsimp only
  rw [if_neg hne, hmatched, haccepted]
  unfold txFrame
  rw [encodeFrame_ack]

/-! ### Steps 6 and 7, and the rest of the POLL -/

/-- The event unless the frame is a duplicate or no handler is registered (R202, R203), reassembly back at its start (R177),
and the POLL's next tick (R212). -/
theorem endProcess_deliver_ticksFrom (h : bodyType s ≠ 2) : endProcess (deliver s) = { s with
    events := if s.handlerEn && !s.tmp.dup then s.events ++ [⟨bodyId s, bodyType s, bodyPayload s, bodySize s⟩]
              else s.events
    rxState := .awaitingStart
    rxIdx := 0
    seq := ticksFrom (s.pend.active && s.pend.needAck) s } := by
  rw [deliver_event h, endProcess_ticksFrom]
  rfl

theorem sendBytes_byte {a : After} {x : List Byte} (hl : s.straps.level = .byte) :
    sendBytes x a s = frameSent a { s with txBytes := s.txBytes ++ x } := by
  unfold sendBytes
  rw [hl]

/-- Settles O28: the ACK goes out from the state steps 2 to 4 leave, and the rest of PE.PROCESS comes behind it. -/
theorem validatedFrameIsAcknowledgedThenDelivered : Obligations.ValidatedFrameIsAcknowledgedThenDelivered := by
  intro s hvalid type id n htype dup captured delivered
  have hprocess : process s = .next (sendBytes (ackBytes id) .autoAck captured) :=
    process_of_helloOrData ((validBody_iff s).mpr hvalid) htype
  have hne : type ≠ 2 := by obtain h | h := htype <;> rw [h] <;> decide
  have hdelivered (stamp : Nat) :
      endProcess (deliver (sentState (ackBytes id) stamp captured)) =
        delivered (sentState (ackBytes id) stamp captured) := by
    unfold sentState
    split <;> exact endProcess_deliver_ticksFrom hne
  refine ⟨fun hl => ?_, fun hl => ?_, fun hf hc => ?_⟩
  · rw [hprocess, sendBytes_byte (s := captured) hl]
    exact congrArg Host.Outcome.next (endProcess_deliver_ticksFrom hne)
  · obtain ⟨tx, hbytes, hafter, hsend⟩ :=
      sendBytes_wire (bytes := ackBytes id) (s := captured) hl (by simp [ackBytes]) .autoAck
    obtain ⟨b, rest, after⟩ := tx
    cases hbytes
    cases hafter
    rw [hprocess, hsend]
    rfl
  · obtain ⟨stamp, hrun⟩ := run_autoAck id captured hf hc
    refine ⟨stamp, ?_⟩
    rw [hprocess, andThen_next, runCommand, sendBytes_env, hrun, deliver_env, endProcess_env, run_env, hdelivered]
    rfl

end Sys2Proof.Machine
end

section
/-! The protocol engine family: conforming frames as whole rows (R198 to R203). -/
namespace Sys2Proof.Machine

variable {s t : State} {length type id checksum : Byte} {payload : List Byte}

/-! ### HELLO and DATA frames -/

/-- `accepted` in terms of the frame received. -/
def acceptedFrame (type id : Byte) (payload : List Byte) (s : State) : State := { s with
  peerKnown := s.peerKnown || decide (type = 0 ∧ payload ≠ [])
  peerId := if type = 0 then payload.headD s.peerId else s.peerId
  lastValid := s.lastValid || decide (type = 1)
  lastId := if type = 1 then id else s.lastId
  tmp := { s.tmp with dup := decide (type = 1) && s.lastValid && s.lastId == id } }

theorem accepted_bodyComplete (hp : payload.length + 3 = length.toNat) (type id checksum : Byte) (s : State) :
    accepted (bodyComplete length type id checksum payload s) =
      bodyComplete length type id checksum payload (acceptedFrame type id payload s) := by
  have hstored := stored_bodyComplete hp type id checksum s
  unfold accepted
  rw [hstored.type, hstored.id, hstored.n]
  cases payload with
  | nil => simp [bodyComplete, acceptedFrame]
  | cons v payload => simp [bodyComplete, acceptedFrame, rxByte]

/-- A received body, reassembly back at its start and the block idle (R177). -/
theorem resetReassembly_bodyComplete (hs : s.seq = .idle) (hf : s.feed = []) :
    goTo .idle (resetReassembly (bodyComplete length type id checksum payload s)) =
      bodyStored length ([type, id] ++ payload ++ [checksum]) s := by
  simp [goTo, resetReassembly, bodyComplete, bodyStored, hs, hf]

/-- Sending does not touch the reassembly. -/
theorem sentState_resetReassembly (x : List Byte) (stamp : Nat) (s : State) :
    goTo .idle (resetReassembly (sentState x stamp s)) = sentState x stamp (goTo .idle (resetReassembly s)) := by
  unfold sentState
  rw [show (goTo .idle (resetReassembly s)).straps = s.straps from rfl]
  split <;> rfl

section Row
variable (hs : s.seq = .idle) (hf : s.feed = []) (hn : noDeadline s = true) (h0 : s.rxState = .awaitingStart)
  (hb : s.rxBuf.length = maxBody s.straps)
  (hw : frameOk s.straps.maxPayload.val length type id payload checksum = true)
include hn hs h0 hb hw

/-- The bytes of a conforming frame bring its body to PE.PROCESS, where it validates (R180). -/
theorem receiveAll_of_frameOk :
    receiveAll (frameBytes length type id payload checksum) s =
        process (bodyComplete length type id checksum payload s) ∧
      Stored length type id checksum payload (bodyComplete length type id checksum payload s) ∧
      validBody (bodyComplete length type id checksum payload s) = true := by
  obtain ⟨hl, hmax, hp, hck⟩ := frameOk_parts hw
  obtain ⟨hall, hstored⟩ := receiveAll_frame (type := type) (id := id) (checksum := checksum) s hs hn h0 hb hl hmax hp
  exact ⟨hall, hstored, by rw [hstored.valid, hck, beq_self_eq_true]⟩

include hf

/-- A conforming HELLO or DATA frame as PE.PROCESS takes it: steps 2 and 4, the ACK, the event (R196). -/
theorem receiveFrame_of_helloOrData (htype : type = 0 ∨ type = 1) (hc : canSend (ackBytes id) s = true) :
    ∃ stamp, receiveFrame (frameBytes length type id payload checksum) s =
      .next { sentState (ackBytes id) stamp
                (bodyStored length ([type, id] ++ payload ++ [checksum]) (acceptedFrame type id payload s)) with
              events := if s.handlerEn && !(acceptedFrame type id payload s).tmp.dup then
                          s.events ++ [⟨id, type, payload, payload.length⟩]
                        else s.events } := by
  obtain ⟨hall, hstored, hvalid⟩ := receiveAll_of_frameOk hs hn h0 hb hw
  have hprocess := process_of_helloOrData hvalid (by rwa [hstored.type])
  have hne : type ≠ 2 := by obtain rfl | rfl := htype <;> decide
  rw [hstored.id, accepted_bodyComplete hstored.size] at hprocess
  obtain ⟨stamp, hrun⟩ := run_ack (bodyComplete length type id checksum payload (acceptedFrame type id payload s))
    (stored_bodyComplete hstored.size ..) hne hn rfl hc
  refine ⟨stamp, ?_⟩
  rw [receiveFrame_env (hall.trans hprocess) (sendBytes_env ..),
    ← resetReassembly_bodyComplete (s := acceptedFrame type id payload s) hs hf, ← sentState_resetReassembly]
  exact hrun

end Row

/-- Settles O29: the row HELLO, whose payload's first byte, if any, is the peer's id. -/
theorem helloIsCapturedAcknowledgedDelivered : Obligations.HelloIsCapturedAcknowledgedDelivered := by
  intro length id checksum payload s hs hf hn h0 hb hw hc
  obtain ⟨stamp, hrow⟩ := receiveFrame_of_helloOrData (type := 0) hs hf hn h0 hb hw (.inl rfl) hc
  have haccepted : acceptedFrame 0 id payload s = { s with
      peerKnown := s.peerKnown || decide (payload ≠ [])
      peerId := payload.headD s.peerId
      tmp := { s.tmp with dup := false } } := by simp [acceptedFrame]
  refine ⟨stamp, hrow.trans ?_⟩
  rw [haccepted]
  simp

/-- Settles O30: the row DATA, which leaves the peer as it is. -/
theorem dataIsFilteredAcknowledgedDelivered : Obligations.DataIsFilteredAcknowledgedDelivered := by
  intro length id checksum payload s hs hf hn h0 hb hw hc dup
  obtain ⟨stamp, hrow⟩ := receiveFrame_of_helloOrData (type := 1) hs hf hn h0 hb hw (.inr rfl) hc
  have haccepted : acceptedFrame 1 id payload s =
      { s with lastValid := true, lastId := id, tmp := { s.tmp with dup := dup } } := by simp [acceptedFrame, dup]
  refine ⟨stamp, hrow.trans ?_⟩
  rw [haccepted]

/-! ### ACK frames -/

/-- Settles O31: with nothing pending an ACK body matches nothing, and no deadline is left for the ticks. -/
theorem unmatchedAckChangesNothing : Obligations.UnmatchedAckChangesNothing := by
  intro length id checksum payload s hs hf hn h0 hb hw
  obtain ⟨hall, hstored, hvalid⟩ := receiveAll_of_frameOk hs hn h0 hb hw
  have hprocess := process_of_ack hvalid hstored.type
  rw [matchAck_of_not_pendWaits (by exact noDeadline_pend hn), endProcess_none (by exact hn)] at hprocess
  have hrow := receiveFrame_of_idle (hall.trans hprocess) rfl
  exact hrow.trans (congrArg Host.Outcome.next (resetReassembly_bodyComplete (s := setDup false s) hs hf))

end Sys2Proof.Machine
end

section
/-! The protocol engine family: a frame received while a transmission waits for its acknowledgment (R199, R207, R212). -/
namespace Sys2Proof.Machine

variable {s t : State} {length type id checksum : Byte} {payload : List Byte}

/-! ### A POLL before the deadline (R207, R212) -/

/-- A received frame runs on over the listed draws, wherever its POLLs first come to a supplier call. -/
theorem receiveFrame_eq_run (bytes : List Byte) (s : State) :
    receiveFrame bytes s = andThen (receiveAll bytes s) (run s.env) := by
  have hsame : receiveAll bytes s = withEnv s.env (receiveAll bytes s) := receiveAll_withEnv s.env bytes s
  show andThen (receiveAll bytes s) runCommand = _
  cases hall : receiveAll bytes s with
  | next t =>
    rw [hall] at hsame
    have hunseen : t = { t with env := s.env } := Host.Outcome.next.inj hsame
    have henv : t.env = s.env := (congrArg State.env hunseen :)
    exact congrArg (run · t) henv
  | fault r => rfl
  | refused r => rfl

/-- Between two POLLs a transmission waits for its acknowledgment, periodic HELLO is off, and the deadline will not have
passed after `ds`. -/
def WaitsFor (ds : List Draw) (s : State) : Prop :=
  s.seq = .idle ∧ pendWaits s = true ∧ s.helloInt = 0 ∧ readMillis (elapsed ds s) ≤ s.pend.lastMs + s.ackTo

theorem readMillis_elapsed_mono (ds es : List Draw) (s : State) :
    readMillis (elapsed ds s) ≤ readMillis (elapsed (ds ++ es) s) := by
  rw [elapsed_append]
  exact Grows.readMillis (by constructor <;> simp [elapsed])

theorem WaitsFor.before {ds es : List Draw} (h : WaitsFor (ds ++ es) s) : WaitsFor ds s := by
  obtain ⟨hs, hw, hz, hdue⟩ := h
  exact ⟨hs, hw, hz, (readMillis_elapsed_mono ds es s).trans hdue⟩

theorem WaitsFor.after {ds es : List Draw} (h : WaitsFor (ds ++ es) s) : WaitsFor es (elapsed ds s) := by
  obtain ⟨hs, hw, hz, hdue⟩ := h
  exact ⟨hs, hw, hz, elapsed_append ds es s ▸ hdue⟩

/-- Before the deadline the retry tick only reads the clock (R207). -/
theorem retryDue_of_not_due (h : readMillis s ≤ s.pend.lastMs + s.ackTo) : retryDue s = helloTick s :=
  if_neg (Nat.not_lt.mpr (Nat.sub_le_iff_le_add'.mpr h))

theorem primitive_retryNow_of_not_due {d : Draw} (hs : s.seq = .retryNow) (hz : s.helloInt = 0)
    (h : readMillis (tick d s) ≤ s.pend.lastMs + s.ackTo) : primitive d s = .next (goTo .idle (tick d s)) := by
  unfold primitive
  rw [hs]
  dsimp only
  rw [retryDue_of_not_due h, helloTick_eq, if_pos (by exact hz)]

/-- One POLL before the deadline: its byte moves the registers to `u`, its tick takes one draw, and the next POLL begins. -/
theorem receiveAll_cons_of_waitsFor {b : Byte} {rest : List Byte} {d : Draw} {u : State}
    (hr : received b { s with feed := rest } = .next (retryTick { u with feed := rest })) (hu : WaitsFor [d] u)
    (more : List Draw) :
    andThen (receiveAll (b :: rest) s) (run (d :: more)) = andThen (receiveAll rest (elapsed [d] u)) (run more) := by
  obtain ⟨hs, hw, hz, hdue⟩ := hu
  have hpoll : retryTick { u with feed := rest } = goTo .retryNow { u with feed := rest } := if_pos hw
  have htick : primitive d (goTo .retryNow { u with feed := rest }) =
      .next { elapsed [d] u with seq := .idle, feed := rest } := by
    rw [primitive_retryNow_of_not_due (s := goTo .retryNow { u with feed := rest }) rfl hz
      (by rw [tick_eq_elapsed]; exact hdue), tick_eq_elapsed]
    rfl
  have hsettled : settle { elapsed [d] u with seq := .idle, feed := rest } = receiveAll rest (elapsed [d] u) := by
    rw [← hs]
    exact (if_pos ((isIdle_iff _).mpr hs)).trans (receiveAll_feed rest rest (elapsed [d] u))
  rw [receiveAll_cons, hr, andThen_next, hpoll, if_neg (by simp), andThen_next, run_settle (by simp), htick, andThen_next,
    hsettled]

/-- START and LENGTH, one draw each. -/
theorem receiveAll_header_of_waitsFor {ds : List Draw} (hds : ds.length = 2) (hw : WaitsFor ds s)
    (h0 : s.rxState = .awaitingStart) (hl : 3 ≤ length.toNat) (hu : length.toNat ≤ s.straps.maxPayload.val + 3)
    (rest : List Byte) (more : List Draw) :
    andThen (receiveAll (0xA5 :: length :: rest) s) (run (ds ++ more)) =
      andThen (receiveAll rest { elapsed ds s with rxLen := length, rxIdx := 0, rxState := .readingBody }) (run more) := by
  match ds, hds with
  | [d, e], _ =>
    have hstart : received 0xA5 { s with feed := length :: rest } =
        .next (retryTick { s with rxState := .awaitingLength, feed := length :: rest }) := received_start h0
    have hlength : received length { elapsed [d] { s with rxState := .awaitingLength } with feed := rest } =
        .next (retryTick { elapsed [d] { s with rxLen := length, rxIdx := 0, rxState := .readingBody } with
          feed := rest }) := by
      rw [received_length (by rfl), stepLength_in hl (by exact hu)]
      rfl
    have hfirst : WaitsFor [d] { s with rxState := .awaitingLength } := hw.before (es := [e])
    have hsecond : WaitsFor [e] (elapsed [d] { s with rxLen := length, rxIdx := 0, rxState := .readingBody }) :=
      hw.after (ds := [d])
    have hboth := elapsed_append [d] [e] { s with rxLen := length, rxIdx := 0, rxState := .readingBody }
    show andThen _ (run (d :: e :: more)) = _
    rw [receiveAll_cons_of_waitsFor (u := { s with rxState := .awaitingLength }) hstart hfirst,
      receiveAll_cons_of_waitsFor hlength hsecond, ← hboth]
    rfl

/-- `RXBUF` after one more body byte, seen from the bytes before it (R177). -/
theorem body_after_set (buf x : List Byte) {i : Nat} (hi : i < buf.length) (b : Byte) :
    (buf.set i b).take (i + 1) ++ x ++ (buf.set i b).drop (i + 1 + x.length) =
      buf.take i ++ b :: x ++ buf.drop (i + (b :: x).length) := by
  rw [take_set_succ _ _ _ hi, List.drop_set_of_lt (by omega)]
  simp [Nat.add_assoc, Nat.add_comm 1]

/-- Body bytes short of the last, one draw each. -/
theorem receiveAll_body_of_waitsFor {x : List Byte} {ds : List Draw} (hds : ds.length = x.length) (hw : WaitsFor ds s)
    (h0 : s.rxState = .readingBody) (hidx : s.rxIdx + x.length < s.rxLen.toNat) (hbuf : s.rxLen.toNat ≤ s.rxBuf.length)
    (rest : List Byte) (more : List Draw) :
    andThen (receiveAll (x ++ rest) s) (run (ds ++ more)) = andThen (receiveAll rest { elapsed ds s with
      rxBuf := s.rxBuf.take s.rxIdx ++ x ++ s.rxBuf.drop (s.rxIdx + x.length)
      rxIdx := s.rxIdx + x.length }) (run more) := by
  induction x generalizing ds s with
  | nil =>
    obtain rfl := List.length_eq_zero_iff.mp hds
    simp
  | cons b x ih =>
    obtain ⟨d, ds, rfl⟩ := List.exists_cons_of_length_eq_add_one hds
    simp only [List.length_cons] at hidx
    have hmore : s.rxIdx + 1 ≠ s.rxLen.toNat := by omega
    have hr : received b { s with feed := x ++ rest } = .next (retryTick { storeBody b s with feed := x ++ rest }) :=
      (received_body (s := { s with feed := x ++ rest }) h0).trans (stepBody_more hmore)
    have hfirst : WaitsFor [d] (storeBody b s) := hw.before (ds := [d]) (es := ds)
    have hlater : WaitsFor ds (elapsed [d] (storeBody b s)) := hw.after (ds := [d])
    have hnext : (elapsed [d] (storeBody b s)).rxIdx + x.length < s.rxLen.toNat := by
      show s.rxIdx + 1 + x.length < _
      omega
    have hsize : s.rxLen.toNat ≤ (s.rxBuf.set s.rxIdx b).length := by rwa [List.length_set]
    have hstored := body_after_set s.rxBuf x (i := s.rxIdx) (by omega) b
    have hlast : s.rxIdx + 1 + x.length = s.rxIdx + (b :: x).length := by simp only [List.length_cons]; omega
    have hrest := ih (s := elapsed [d] (storeBody b s)) (Nat.succ.inj hds) hlater h0 hnext hsize
    rw [← elapsed_append] at hrest
    rw [← hstored, ← hlast]
    exact (receiveAll_cons_of_waitsFor hr hfirst (ds ++ more)).trans hrest

/-- The checksum byte completes the body (R177). -/
theorem receiveAll_checksum (hp : payload.length + 3 = length.toNat) (hb : length.toNat ≤ s.rxBuf.length) :
    receiveAll [checksum] { s with
      rxLen := length
      rxState := .readingBody
      rxIdx := payload.length + 2
      rxBuf := [type, id] ++ payload ++ s.rxBuf.drop (payload.length + 2) } =
    process (bodyComplete length type id checksum payload s) := by
  have hstored := drop_set s.rxBuf (payload.length + 2) ([type, id] ++ payload) checksum (by simp) (by omega)
  rw [receiveAll_last rfl (by simp only; omega)]
  simp only [storeBody, bodyComplete, hstored]

/-- The bytes of a frame bring its body to PE.PROCESS, one draw for each but the last. -/
theorem receiveAll_frame_of_waitsFor {ds : List Draw} (hds : ds.length = payload.length + 4) (hw : WaitsFor ds s)
    (h0 : s.rxState = .awaitingStart) (hb : s.rxBuf.length = maxBody s.straps) (hl : 3 ≤ length.toNat)
    (hu : length.toNat ≤ s.straps.maxPayload.val + 3) (hp : payload.length + 3 = length.toNat) (more : List Draw) :
    andThen (receiveAll (frameBytes length type id payload checksum) s) (run (ds ++ more)) =
      andThen (process (bodyComplete length type id checksum payload (elapsed ds s))) (run more) := by
  obtain ⟨header, body, rfl, hheader⟩ : ∃ header body, ds = header ++ body ∧ header.length = 2 :=
    ⟨ds.take 2, ds.drop 2, (List.take_append_drop 2 ds).symm, by simp; omega⟩
  have hbody : body.length = ([type, id] ++ payload).length := by
    simp only [List.length_append, List.length_cons, List.length_nil] at hds ⊢
    omega
  have hbuf : length.toNat ≤ s.rxBuf.length := hb ▸ hu
  have hfirst := receiveAll_header_of_waitsFor hheader hw.before h0 hl hu (([type, id] ++ payload) ++ [checksum])
    (body ++ more)
  have hrest := receiveAll_body_of_waitsFor hbody
    (s := { elapsed header s with rxLen := length, rxIdx := 0, rxState := .readingBody }) hw.after rfl
    (by simp only [List.length_append, List.length_cons, List.length_nil]; omega) hbuf [checksum] more
  rw [List.append_assoc]
  refine (hfirst.trans hrest).trans ?_
  rw [← receiveAll_checksum (s := elapsed (header ++ body) s) hp hbuf, elapsed_append]
  simp [elapsed]

/-- Settles O32: before the deadline the POLLs of the frame only read the clock, and its last byte finds the slot waiting. -/
theorem matchingAckClearsTheSlot : Obligations.MatchingAckClearsTheSlot := by
  intro length id checksum payload ds rest s hs hf hz h0 hb hw hactive hneeds hid henv hds hdue
  obtain ⟨hl, hmax, hp, hck⟩ := frameOk_parts hw
  have hwaits : pendWaits s = true := by simp [pendWaits, hactive, hneeds]
  have hstored := stored_bodyComplete hp Config.typeAck id checksum (elapsed ds s)
  have hvalid : validBody (bodyComplete length Config.typeAck id checksum payload (elapsed ds s)) = true := by
    rw [hstored.valid, hck, beq_self_eq_true]
  have hprocess := process_of_matching_ack hvalid hstored.type hwaits (hid.trans hstored.id.symm) hz
  show receiveFrame (frameBytes length Config.typeAck id payload checksum) s = _
  rw [receiveFrame_eq_run, henv, receiveAll_frame_of_waitsFor hds ⟨hs, hwaits, hz, hdue⟩ h0 hb hl hmax hp, hprocess,
    andThen_next, run_of_idle _ _ rfl]
  simp [bodyComplete, bodyStored, elapsed, hs, hf, Config.typeAck]

end Sys2Proof.Machine
end

section
/-! The protocol engine family: INIT, the HELLO tick and the retry tick (R207 to R211). -/
namespace Sys2Proof.Machine

variable {s t : State}

/-! ### HELLO generation (R209 to R211) -/

/-- PE.SENDHELLO starts from the position of whichever caller (R210, R211). -/
theorem sendHello_seq (p : Pos) (s : State) : sendHello { s with seq := p } = sendHello s :=
  sendBytes_seq _ _ _ p (newId s)

/-- Settles O39: INIT with `hello = 1` is PE.SENDHELLO. -/
theorem initSendsHelloOnRequest : Obligations.InitSendsHelloOnRequest := by
  refine ⟨fun _ => rfl, ?_⟩
  intro s hs hf frame hc d rest henv
  obtain ⟨stamp, hrun⟩ := run_sendHello s s.env hs hf hc d rest henv
  have hlisted : (sendHello s).env = s.env := sendBytes_env _ _ (newId s)
  refine ⟨stamp, ?_⟩
  show run (sendHello s).env (sendHello s) = _
  rw [hlisted]
  exact hrun

theorem helloDue_of_not_due (h : readMillis s < s.lastHello + s.helloInt) (hz : s.helloInt ≠ 0) :
    helloDue s = goTo .idle s := if_neg (by omega)

theorem helloDue_of_due (h : s.lastHello + s.helloInt ≤ readMillis s) : helloDue s = sendHello s := if_pos (by omega)

/-- A step of a running command goes on over the listed draws. -/
theorem step_of_listed {d : Draw} {rest : List Draw} (hbusy : s.seq ≠ .idle) (henv : s.env = d :: rest) :
    step s = run (d :: rest) s := by
  unfold step resume
  rw [(not_ready_iff s).mpr hbusy, henv]
  rfl

/-- A clock read takes its draw, and what follows it goes on over the draws behind it. -/
theorem run_clockRead {d : Draw} {rest : List Draw} {f : State → State} (hbusy : s.seq ≠ .idle) (hf : s.feed = [])
    (hread : primitive d s = .next (f (tick d s))) (hunseen : ∀ e u, f { u with env := e } = { f u with env := e }) :
    run (d :: rest) s = run rest (f (useDraw d rest s)) := by
  have hlisted : run rest (f (useDraw d rest s)) = run rest (f (tick d s)) :=
    (congrArg (run rest) (hunseen rest (tick d s))).trans (run_env rest rest (f (tick d s)))
  rw [run_cons_of_feed_nil hbusy hf hread, hlisted]

/-- Settles O42: the clock read decides between PE.SENDHELLO and the end of the POLL. -/
theorem helloTickSendsWhenDue : Obligations.HelloTickSendsWhenDue := by
  intro d rest s hs hf hz henv u
  have hbusy : s.seq ≠ .idle := by simp [hs]
  have hread : primitive d s = .next (helloDue (tick d s)) := by
    unfold primitive
    rw [hs]
  have hstep : step s = run rest (helloDue (useDraw d rest s)) :=
    (step_of_listed hbusy henv).trans (run_clockRead hbusy hf hread helloDue_env)
  constructor
  · intro hearly
    rw [hstep, helloDue_of_not_due (s := useDraw d rest s) hearly hz]
    exact run_of_idle rest u rfl
  · intro hdue frame hc d' rest' henv'
    obtain ⟨stamp, hrun⟩ := run_sendHello u rest rfl hf hc d' rest' henv'
    refine ⟨stamp, ?_⟩
    rw [hstep, helloDue_of_due (s := useDraw d rest s) hdue, ← sendHello_seq .idle]
    exact hrun

/-! ### The retry tick (R207) -/

/-- The transmission counted as one more retry (R207). -/
def countRetry (s : State) : State := { s with pend := { s.pend with retries := s.pend.retries + 1 } }

theorem retryDue_of_exhausted (h : s.pend.lastMs + s.ackTo < readMillis s) (hr : s.maxRetry ≤ s.pend.retries) :
    retryDue s = helloTick (releaseSlot s) := by
  unfold retryDue
  rw [if_pos (by omega), if_neg (by omega)]

theorem retryDue_of_retries_left (h : s.pend.lastMs + s.ackTo < readMillis s) (hr : s.pend.retries < s.maxRetry) :
    retryDue s =
      sendBytes (encodeFrame s.straps s.pend.type s.pend.id s.pend.payload s.pend.len) .retry (countRetry s) := by
  unfold retryDue
  rw [if_pos (by omega), if_pos hr]
  rfl

theorem sentState_countRetry (x : List Byte) (stamp : Nat) (s : State) :
    sentState x stamp (countRetry s) = countRetry (sentState x stamp s) := by
  unfold sentState
  rw [show (countRetry s).straps = s.straps from rfl]
  split <;> rfl

/-- A retransmission that can go out: the frame again, and its time stamp (R207). -/
theorem run_retransmission {d : Draw} {rest : List Draw} {frame : List Byte} (hs : s.seq = .idle) (hf : s.feed = [])
    (hz : s.helloInt = 0) (hne : frame ≠ []) (hc : canSend frame s = true) (henv : (sentState frame 0 s).env = d :: rest) :
    ∃ stamp, run s.env (sendBytes frame .retry (countRetry s)) =
      (let t := useDraw d rest (sentState frame stamp s)
       .next { t with pend := { s.pend with retries := s.pend.retries + 1, lastMs := readMillis t } }) := by
  obtain ⟨stamp, hrun⟩ := run_sendBytes frame .retry (countRetry s) hne hf hc
  have hlisted : (sentState frame stamp s).env = d :: rest := (sentState_env ..).trans henv
  have hidle : (sentState frame stamp s).seq = .idle := (sentState_seq ..).trans hs
  have hpend : (sentState frame stamp s).pend = s.pend := sentState_pend ..
  have hfeed : (sentState frame stamp s).feed = [] := (sentState_feed ..).trans hf
  have hoff : (sentState frame stamp s).helloInt = 0 := by
    unfold sentState
    split <;> exact hz
  refine ⟨stamp, hrun.trans ?_⟩
  rw [sentState_countRetry]
  generalize sentState frame stamp s = u at *
  have hstamped := run_retryStamp d rest (countRetry s).env (countRetry u) hfeed hoff
  rw [show (countRetry u).env = d :: rest from hlisted]
  refine hstamped.trans ?_
  rw [← hidle, ← hpend]
  rfl

section RetryNow
variable {d : Draw} {rest : List Draw} (hs : s.seq = .retryNow) (hf : s.feed = []) (hz : s.helloInt = 0)
include hs hf

theorem run_retryNow : run (d :: rest) s = run rest (retryDue (useDraw d rest s)) :=
  run_clockRead (by simp [hs]) hf (by unfold primitive; rw [hs]) retryDue_env

include hz

theorem run_retryNow_of_not_due (h : readMillis (useDraw d rest s) ≤ s.pend.lastMs + s.ackTo) :
    run (d :: rest) s = .next { useDraw d rest s with seq := .idle } := by
  rw [run_retryNow hs hf, retryDue_of_not_due (s := useDraw d rest s) h, helloTick_eq, if_pos (by exact hz)]
  exact run_of_idle rest (goTo .idle (useDraw d rest s)) rfl

theorem run_retryNow_of_exhausted (h : s.pend.lastMs + s.ackTo < readMillis (useDraw d rest s))
    (hr : s.maxRetry ≤ s.pend.retries) :
    run (d :: rest) s = .next { useDraw d rest s with seq := .idle, pend := { s.pend with active := false } } := by
  rw [run_retryNow hs hf, retryDue_of_exhausted (s := useDraw d rest s) h hr, helloTick_eq, if_pos (by exact hz)]
  exact run_of_idle rest (goTo .idle (releaseSlot (useDraw d rest s))) rfl

theorem run_retryNow_of_retries_left {frame : List Byte}
    (hframe : frame = encodeFrame s.straps s.pend.type s.pend.id s.pend.payload s.pend.len)
    (h : s.pend.lastMs + s.ackTo < readMillis (useDraw d rest s)) (hr : s.pend.retries < s.maxRetry)
    (hc : canSend frame { useDraw d rest s with seq := .idle } = true) {d' : Draw} {rest' : List Draw}
    (henv : (sentState frame 0 { useDraw d rest s with seq := .idle }).env = d' :: rest') :
    ∃ stamp, run (d :: rest) s =
      (let t := useDraw d' rest' (sentState frame stamp { useDraw d rest s with seq := .idle })
       .next { t with pend := { s.pend with retries := s.pend.retries + 1, lastMs := readMillis t } }) := by
  have hne : frame ≠ [] := by simp [hframe, encodeFrame]
  obtain ⟨stamp, hrun⟩ := run_retransmission (s := { useDraw d rest s with seq := .idle }) rfl hf hz hne hc henv
  refine ⟨stamp, ?_⟩
  rw [run_retryNow hs hf, retryDue_of_retries_left (s := useDraw d rest s) h hr]
  subst hframe
  exact (congrArg (run rest) (sendBytes_seq _ _ _ .idle (countRetry (useDraw d rest s)))).symm.trans hrun

end RetryNow

/-- Settles O40: the three branches behind the clock read. -/
theorem retryTickRetransmitsOrGivesUp : Obligations.RetryTickRetransmitsOrGivesUp := by
  intro d rest s hs hf hz henv u
  rw [step_of_listed (by simp [hs]) henv]
  exact ⟨run_retryNow_of_not_due hs hf hz, run_retryNow_of_exhausted hs hf hz,
    fun hdue hr hc _ _ => run_retryNow_of_retries_left hs hf hz rfl hdue hr hc⟩

/-! ### A transmission that is never acknowledged (R207, R208) -/

/-- A byte-level POLL that finds no byte while a transmission waits begins with the retry tick's clock read (R212). -/
theorem exec_poll_of_pendWaits (hl : s.straps.level = .byte) (hc : s.chanIn = []) (hw : pendWaits s = true) :
    exec .poll s = run s.env (goTo .retryNow s) := by
  have htimeout : timedOut s = goTo .retryNow s := if_pos hw
  show begin (rxStart s) = _
  rw [rxStart_byte_nil hl hc, htimeout]
  rfl

/-- A draw after which the deadline has passed, whatever it was counted from (R207). -/
def Draw.exceeds (ackTo : Nat) (d : Draw) : Prop := ackTo < d.ms ∧ 1000 * (ackTo + 1) ≤ d.us

theorem deadline_passed {d : Draw} (hd : d.exceeds s.ackTo) (hlast : s.pend.lastMs ≤ readMillis s) (rest : List Draw) :
    s.pend.lastMs + s.ackTo < readMillis (useDraw d rest s) := by
  obtain ⟨hms, hus⟩ := hd
  have hgrows : readMillis s + s.ackTo < readMillis (useDraw d rest s) := by
    unfold readMillis
    rw [useDraw_straps]
    split
    · rw [useDraw_micros]
      omega
    · rw [useDraw_millis]
      omega
  omega

/-- Between two byte-level POLLs, with periodic HELLO off and nothing on the channel, a transmission waits, and every clock
read to come finds its deadline passed. -/
structure Unanswered (s : State) : Prop where
  level    : s.straps.level = .byte
  idle     : s.seq = .idle
  feed     : s.feed = []
  chanIn   : s.chanIn = []
  helloInt : s.helloInt = 0
  waits    : pendWaits s = true
  lastMs   : s.pend.lastMs ≤ readMillis s
  exceeds  : ∀ d ∈ s.env, d.exceeds s.ackTo

/-- The frame in the pending slot (R207). -/
def pendingFrame (s : State) : List Byte := encodeFrame s.straps s.pend.type s.pend.id s.pend.payload s.pend.len

theorem canSend_byte (hl : s.straps.level = .byte) (x : List Byte) : canSend x s = true := by
  unfold canSend
  rw [hl]

theorem sentState_byte (hl : s.straps.level = .byte) (x : List Byte) (stamp : Nat) :
    sentState x stamp s = { s with txBytes := s.txBytes ++ x } := by
  unfold sentState
  rw [hl]

/-- What a byte-level POLL that retransmits leaves: the time of its two clock reads, the frame, its time stamp (R207). -/
def retransmitted (d d' : Draw) (rest : List Draw) (s : State) : State :=
  let us := s.micros + d.us + d'.us
  let ms := s.millis + d.ms + d'.ms
  { s with
    micros := us
    millis := ms
    env := rest
    txBytes := s.txBytes ++ pendingFrame s
    pend := { s.pend with
      retries := s.pend.retries + 1
      lastMs := readMillis { s with micros := us, millis := ms } } }

theorem exec_poll_retransmits {d d' : Draw} {rest : List Draw} (h : Unanswered s) (henv : s.env = d :: d' :: rest)
    (hr : s.pend.retries < s.maxRetry) : exec .poll s = .next (retransmitted d d' rest s) := by
  have hlate : d.exceeds s.ackTo := h.exceeds d (by simp [henv])
  have hdue := deadline_passed hlate h.lastMs (d' :: rest)
  have hsent := sentState_byte (s := { useDraw d (d' :: rest) (goTo .retryNow s) with seq := .idle }) h.level
    (pendingFrame s)
  have hfree : canSend (pendingFrame s) { useDraw d (d' :: rest) (goTo .retryNow s) with seq := .idle } = true :=
    canSend_byte (by exact h.level) _
  have hlisted : (sentState (pendingFrame s) 0 { useDraw d (d' :: rest) (goTo .retryNow s) with seq := .idle }).env =
      d' :: rest := by rw [hsent]; rfl
  obtain ⟨stamp, hrun⟩ := run_retryNow_of_retries_left (s := goTo .retryNow s) (rest := d' :: rest)
    (frame := pendingFrame s) rfl h.feed h.helloInt rfl hdue hr hfree hlisted
  rw [exec_poll_of_pendWaits h.level h.chanIn h.waits, henv, hrun, hsent]
  simp only [retransmitted, useDraw, tick, goTo, h.idle]
  rfl

theorem unanswered_retransmitted {d d' : Draw} {rest : List Draw} (h : Unanswered s) (henv : s.env = d :: d' :: rest) :
    Unanswered (retransmitted d d' rest s) where
  level := h.level
  idle := h.idle
  feed := h.feed
  chanIn := h.chanIn
  helloInt := h.helloInt
  waits := h.waits
  lastMs := le_rfl
  exceeds := fun e he => h.exceeds e (by rw [henv]; exact List.mem_cons_of_mem d (List.mem_cons_of_mem d' he))

/-- What a POLL that gives up leaves: the time of its clock read, the slot free (R265). -/
def gaveUp (d : Draw) (rest : List Draw) (s : State) : State :=
  { useDraw d rest s with pend := { s.pend with active := false } }

theorem exec_poll_gives_up {d : Draw} {rest : List Draw} (h : Unanswered s) (henv : s.env = d :: rest)
    (hr : s.maxRetry ≤ s.pend.retries) :
    exec .poll s = .next (gaveUp d rest s) := by
  have hlate : d.exceeds s.ackTo := h.exceeds d (by simp [henv])
  have hrun := run_retryNow_of_exhausted (s := goTo .retryNow s) (rest := rest) rfl h.feed h.helloInt
    (deadline_passed hlate h.lastMs rest) hr
  rw [exec_poll_of_pendWaits h.level h.chanIn h.waits, henv, hrun, ← h.idle]
  rfl

/-- Once nothing is pending, byte-level POLLs that find no byte change nothing (R208). -/
theorem pollTimes_of_no_byte (hl : s.straps.level = .byte) (hs : s.seq = .idle) (hc : s.chanIn = [])
    (hn : noDeadline s = true) : ∀ k, pollTimes k s = .next s
  | 0 => rfl
  | k + 1 => by
    unfold pollTimes
    rw [exec_poll_of_no_byte hl hs hc hn, andThen_next, pollTimes_of_no_byte hl hs hc hn k]

/-- By induction on the retries left: each of so many POLLs retransmits, the next gives up, and the others change nothing. -/
theorem pollTimes_of_unanswered (k : Nat) : ∀ (left : Nat) (s : State), Unanswered s →
    s.pend.retries + left = s.maxRetry → s.env.length = 2 * left + 1 →
    ∃ t, pollTimes (left + 1 + k) s = .next t ∧ t.pend.active = false ∧ t.pend.retries = s.maxRetry ∧
      t.txBytes = s.txBytes ++ (List.replicate left (pendingFrame s)).flatten
  | 0, s, h, hr, hlen => by
    obtain ⟨d, henv⟩ := List.length_eq_one_iff.mp hlen
    have hsilent : noDeadline (gaveUp d [] s) = true := (noDeadline_iff _).mpr ⟨Bool.false_and _, h.helloInt⟩
    refine ⟨gaveUp d [] s, ?_, rfl, hr, by simp [gaveUp]⟩
    rw [Nat.zero_add, Nat.add_comm, pollTimes, exec_poll_gives_up h henv hr.ge, andThen_next]
    exact pollTimes_of_no_byte (s := gaveUp d [] s) h.level h.idle h.chanIn hsilent k
  | left + 1, s, h, hr, hlen => by
    match henv : s.env, hlen with
    | d :: d' :: rest, hlen =>
      have hretries : (retransmitted d d' rest s).pend.retries + left = s.maxRetry := by
        show s.pend.retries + 1 + left = s.maxRetry
        omega
      have hlen' : rest.length = 2 * left + 1 := by
        simp only [List.length_cons] at hlen
        omega
      obtain ⟨t, htimes, hinactive, hdone, hbytes⟩ :=
        pollTimes_of_unanswered k left (retransmitted d d' rest s) (unanswered_retransmitted h henv) hretries hlen'
      refine ⟨t, ?_, hinactive, hdone, ?_⟩
      · rw [show left + 1 + 1 + k = (left + 1 + k) + 1 by omega, pollTimes, exec_poll_retransmits h henv (by omega),
          andThen_next, htimes]
      · rw [List.replicate_succ, List.flatten_cons, ← List.append_assoc]
        exact hbytes

/-- Settles O41: a fresh slot has all its retries left. -/
theorem exactlyMaxRetryRetransmissions : Obligations.ExactlyMaxRetryRetransmissions := by
  intro k s hl hs hf hc hz hactive hneeds hfresh hlast hlen hlate
  have hwaits : pendWaits s = true := by simp [pendWaits, hactive, hneeds]
  exact pollTimes_of_unanswered k s.maxRetry s ⟨hl, hs, hf, hc, hz, hwaits, hlast, hlate⟩ (by omega) hlen

end Sys2Proof.Machine
end

section
/-! The host interface family (44_host_interface.md): what each configuration command writes (R231 to R236), and what the
accessors answer (R237, R239). -/
namespace Sys2Proof.Machine

variable {s : State}

/-! ### SETQ (R232, R236) -/

/-- Levels outside 1..4 name no quality (R236). -/
theorem qualityOfLevel_eq_none_iff : ∀ level, qualityOfLevel level = none ↔ level = 0 ∨ 4 < level
  | 0 => iff_of_true rfl (.inl rfl)
  | 1 | 2 | 3 | 4 => iff_of_false nofun (by decide)
  | n + 5 => iff_of_true rfl (.inr (by omega))

/-- The clamp of BT.SETBITP leaves a table value as it is, so the period and the timeout are those of the level (R232). -/
theorem exec_setq_of_level {level : Nat} {q : Quality} (hq : qualityOfLevel level = some q) :
    exec (.setq level) s = .next { s with bitp := qualityBitp q, ackTo := ackToOf (qualityBitp q) } := by
  show execSetq level s = _
  simp only [execSetq, hq, setBitp, clampBitp_qualityBitp]

theorem exec_setq_of_no_level {level : Nat} (hq : qualityOfLevel level = none) :
    exec (.setq level) s = .refused .qualityOutOfRange := by
  show execSetq level s = _
  simp only [execSetq, hq]

/-- Settles O45: each of the four levels names a row of the table, and no other level does. -/
theorem qualityLevelsSetPeriodAndTimeout : Obligations.QualityLevelsSetPeriodAndTimeout := fun _ =>
  ⟨exec_setq_of_level (q := .q1) rfl, exec_setq_of_level (q := .q2) rfl, exec_setq_of_level (q := .q3) rfl,
   exec_setq_of_level (q := .q4) rfl,
   fun level hlevel => exec_setq_of_no_level ((qualityOfLevel_eq_none_iff level).mpr hlevel)⟩

/-! ### The other setters (R231, R233, R234, R235) -/

theorem exec_sethandler : exec .sethandler s = .next { s with handlerEn := true } := rfl

theorem exec_setackto (ms : Nat) : exec (.setackto ms) s = .next { s with ackTo := ms } := rfl

theorem exec_setmaxretry (n : Nat) : exec (.setmaxretry n) s = .next { s with maxRetry := n } := rfl

theorem exec_sethelloint (ms : Nat) : exec (.sethelloint ms) s = .next { s with helloInt := ms } := rfl

/-- Settles O44: the equations of the four commands. -/
theorem settersWriteTheirRegister : Obligations.SettersWriteTheirRegister := fun n _ =>
  ⟨exec_sethandler, exec_setackto n, exec_setmaxretry n, exec_sethelloint n⟩

/-! ### The accessors (R237, R239) -/

theorem exec_getid : exec .getid s = .next (respond (.byte s.straps.devId) s) := rfl

theorem exec_getpeerknown : exec .getpeerknown s = .next (respond (.bit s.peerKnown) s) := rfl

/-- Settles O46: the codes stand in the table of R110, and `respond` adds to the responses only. -/
theorem accessorsRespond : Obligations.AccessorsRespond := by
  refine ⟨fun f n bs => ?_, fun _ => ⟨exec_getid, exec_getpeerknown⟩⟩
  obtain ⟨-, -, -, -, -, hcommands⟩ := wordsDecodeAsTheTableSays
  obtain ⟨-, -, -, -, -, -, -, -, hgetid, -, hgetpeerknown⟩ := hcommands f n bs
  exact ⟨hgetid, hgetpeerknown⟩

end Sys2Proof.Machine
end
